-- ==== Sys2Proof/Word.lean ====
section
/-! DEFINITION. The word types of HTBP (spec 00_scope R9, R10). -/

namespace Sys2Proof

/-- A byte, 8 bits (R10). -/
abbrev Byte := BitVec 8

/-- A 32-bit register or address (R9: AW, CNTW). -/
abbrev Word := BitVec 32

/-- `NONE`, the "no symbol / no node" marker of 32-bit registers and of `SFX[]` (R9). -/
def noneWord : Word := 0xFFFFFFFF

end Sys2Proof
end

