-- ==== Sys2Proof/Machine/Data.lean ====
section
/-! DEFINITION. The plain data types that HTBP's state is made of (10_state). -/

namespace Sys2Proof.Machine

/-- The registers of 10_state R21, in its order. -/
inductive Reg where
  | cmd | status | einfo | arg0 | arg1 | res0 | res1 | res2
  | cfg | tbase | pkCap | pkLen | rawCap | nSym | ssLen | dptr | drem | wlen | rlen
  | wptr | wacc | wcnt | rpos | rbit | tp | root | nnode | nleaf | tlen | nfix
  deriving DecidableEq, Repr

/-- The spaces whose cells are bytes (R40, R41, R43). -/
inductive ByteSpace where
  | pk | raw | stLen | stData
  deriving DecidableEq, Repr

/-- The internal arrays whose entries are 32 bits (R44, R46, R47). -/
inductive WordArray where
  | freq | sfx | soff
  deriving DecidableEq, Repr

/-- A range `lo .. hi - 1` of cells that draw number `gen` left unspecified (60_exceptions R272,
70_reset R300). -/
structure Blur where
  lo : Nat
  hi : Nat
  gen : Nat
  deriving DecidableEq, Repr

/-- A memory or an array as plain data. `cells` lists the cells that hold a known value, addresses
strictly rising. Every other cell is unspecified: it reads as the free value of the newest blur over
it, or of draw 0, the contents at power-on. A free value equals nothing that can be listed, so the
list is canonical. -/
structure Memory (α : Type) where
  cells : List (Nat × α)
  blurs : List Blur
  deriving DecidableEq, Repr

/-- Nothing listed: every cell as power-on left it (R54). -/
def Memory.empty {α : Type} : Memory α := ⟨[], []⟩

/-- A token of SS (R42). -/
inductive Token where
  | sym (id : Nat)
  | split
  deriving DecidableEq, Repr

/-- An entry of NODE (R45): `a` is the child popped first, `b` the child popped second. -/
inductive Node where
  | leaf (sym : Nat) (count : Word)
  | internal (a b : Nat) (count : Word)
  deriving DecidableEq, Repr

/-- An entry of FIX (R49): the PK address of the low byte of an offset field, and the symbol whose
SOFF goes there. -/
structure Fixup where
  pos : Nat
  target : Nat
  deriving DecidableEq, Repr

/-- Where the engine stands between two steps. `descent` and `emission` are the two phases of the
decode walk (44_decode R210); `vli` is a VLI_DEC standing at the first byte of a VLI; `idle` is an
engine between commands (60_exceptions R285). -/
inductive Phase where
  | idle | descent | emission | vli
  deriving DecidableEq, Repr

/-- The decode walk (R210): its phase, its position `p`, its mode (verify or write, R67) and the bytes
the symbol has emitted so far (R217's `count`). -/
structure Walk where
  phase : Phase
  pos : Nat
  verify : Bool
  count : Nat
  deriving DecidableEq, Repr

/-- No walk in progress. -/
def Walk.none : Walk := ⟨.idle, 0, false, 0⟩

/-- Which instance of the open parameter TIEBREAK the machine has (42_huffman R162): the reference
choice (lowest node index), or the choice left open. -/
inductive TieRule where
  | reference
  | leftOpen
  deriving DecidableEq, Repr

/-- What the host does between commands (10_state R53, 30_encoding R115). -/
inductive HostAction where
  /-- `SET no, v`; a SET of CMD starts the command whose opcode is `v`'s low byte (R22). -/
  | set (no : Byte) (v : Word)
  /-- `GET no`. -/
  | get (no : Byte)
  | writePk (a : Word) (v : Byte)
  | readPk (a : Word)
  | writeRaw (a : Word) (v : Byte)
  | readRaw (a : Word)
  /-- A 17-bit token (R42). -/
  | writeSs (i : Word) (t : BitVec 17)
  | readSs (i : Word)
  | writeStLen (id : BitVec 16) (v : Byte)
  | readStLen (id : BitVec 16)
  /-- `ST_DATA[id][k]`, `k` in 0 .. 254 (R43). -/
  | writeStData (id : BitVec 16) (k : Fin 255) (v : Byte)
  | readStData (id : BitVec 16) (k : Fin 255)
  /-- The external reset (70_reset R300). -/
  | reset
  deriving DecidableEq, Repr

end Sys2Proof.Machine
end

