-- ==== Sys2Proof/Config.lean ====
section
/-! DEFINITION. What the spec leaves open (93_implementation_defined U1, U2, U4): free values. None of
these constants has a body, so nothing proved about the machine depends on what they are. -/

namespace Sys2Proof

open Sys2Proof.Machine

/-- The value of an unspecified byte cell: of a space, after draw `gen`, at an address (U1, U2;
log entries 1 and 2). -/
opaque Config.freeByte : ByteSpace → Nat → Nat → Byte

/-- The value of an unspecified SS cell, after draw `gen`, at an index (U1; log entry 1). -/
opaque Config.freeToken : Nat → Nat → BitVec 17

/-- The value of an unspecified entry of FREQ, SFX or SOFF, after draw `gen`, at an id (U1, U2). -/
opaque Config.freeEntry : WordArray → Nat → Nat → Word

/-- The value of an unspecified entry of CODE, after draw `gen`, at an id (U1, U2). -/
opaque Config.freeCode : Nat → Nat → List Bool

/-- The value that draw `n` leaves in a register (U2, 60_exceptions R272; log entry 2). -/
opaque Config.freeReg : Nat → Reg → Word

/-- TIEBREAK left open (00_scope R8, 42_huffman R162; log entry 6): the place, in the list of the
least-count node indices, of the one that the queue yields, taken modulo the list's length. -/
opaque Config.tiebreak : List Nat → Nat

end Sys2Proof
end

