-- ==== Sys2Proof/Machine/State.lean ====
section
/-! DEFINITION. The state of HTBP (10_state R20: the register file, the four memory spaces, the six
internal arrays), the decode walk's position and phase (44_decode R210), and the model's own fields. -/

namespace Sys2Proof.Machine

/-- The whole state. Registers are R21's, STATUS as its five fields (R23). -/
structure State where
  /-- STATUS[0], BUSY: a command is running (R23). -/
  busy : Bool
  /-- STATUS[1], OVF: a byte was dropped (R23). -/
  ovf : Bool
  /-- STATUS[2], V_HUF: the tree arrays are valid (R23). -/
  vHuf : Bool
  /-- STATUS[3], V_SER: the table arrays are valid (R23). -/
  vSer : Bool
  /-- STATUS[7:4], ERR: 0 or the code of the pending error (R23, R260). -/
  err : BitVec 4
  /-- EINFO (R24). -/
  einfo : Word
  /-- ARG0, ARG1: operands (R25). -/
  arg0 : Word
  arg1 : Word
  /-- RES0, RES1, RES2: results (R25). -/
  res0 : Word
  res1 : Word
  res2 : Word
  /-- CFG[7:0] = SUFFIX_MIN (R27). -/
  cfg : Byte
  /-- TBASE: PK address of the table (R28). -/
  tbase : Word
  /-- PK_CAP bounds writes to PK, PK_LEN reads (R29). -/
  pkCap : Word
  pkLen : Word
  /-- RAW_CAP bounds RAW (R30). -/
  rawCap : Word
  /-- N_SYM: size of the alphabet; SS_LEN: tokens in SS (R31). -/
  nSym : Word
  ssLen : Word
  /-- DPTR: RAW cursor (R30); DREM: bytes of the block not yet emitted (R35). -/
  dptr : Word
  drem : Word
  /-- WLEN, RLEN: high-water marks (R32, R30). -/
  wlen : Word
  rlen : Word
  /-- The bit writer: WPTR, WACC, WCNT (R32). -/
  wptr : Word
  wacc : Byte
  wcnt : BitVec 3
  /-- The bit reader: RPOS, RBIT (R33). -/
  rpos : Word
  rbit : BitVec 3
  /-- TP: the table cursor (R34). -/
  tp : Word
  /-- ROOT, NNODE, NLEAF: the tree (R36). -/
  root : Word
  nnode : Word
  nleaf : Word
  /-- TLEN, NFIX: the table (R36). -/
  tlen : Word
  nfix : Word
  /-- PK, the packed space (R40). -/
  pk : Memory Byte
  /-- RAW, the raw space (R41). -/
  raw : Memory Byte
  /-- SS, the symbol stream, 17-bit tokens (R42). -/
  ss : Memory (BitVec 17)
  /-- ST_LEN[id] (R43). -/
  stLen : Memory Byte
  /-- ST_DATA[id][k], listed under 255 id + k (R43). -/
  stData : Memory Byte
  /-- FREQ[id] (R44). -/
  freq : Memory Word
  /-- NODE[n] (R45). -/
  node : Memory Node
  /-- SFX[id] (R46). -/
  sfx : Memory Word
  /-- SOFF[id] (R47). -/
  soff : Memory Word
  /-- CODE[id] (R48). -/
  code : Memory (List Bool)
  /-- FIX[k] (R49). -/
  fix : Memory Fixup
  /-- The decode walk (44_decode R210); `Walk.none` between commands (R51; log entry 4). -/
  walk : Walk
  /-- MODEL'S OWN: what the host does next, oldest first (log entry 3). -/
  script : List HostAction
  /-- MODEL'S OWN: the value the host's last read returned (log entry 3). -/
  hostRead : Word
  /-- MODEL'S OWN: the number of the next draw of free values (log entry 2). -/
  freeCtr : Nat
  /-- MODEL'S OWN: the machine's TIEBREAK, which no step changes (log entry 6). -/
  tie : TieRule
  deriving DecidableEq, Repr

/-- Where the machine stops for good. -/
inductive Fault where
  /-- Raised by DEC_SYM and DEC_BLOCK when the walk never ends (93 U3, 44_decode R224): the command has
  no final state. Safe: nothing is proved of such a run. -/
  | walkNeverEnds
  /-- Raised by HUF_BITS, SER_SIZE, SER_BUILD and EST_SIZE when NODE does not hold, under ROOT, the tree that
  10_state R45 describes, or FIX does not hold the fixups just recorded. No run from reset reaches such a
  state. Safe. -/
  | treeBroken
  deriving DecidableEq, Repr

/-- What the model gives no meaning. -/
inductive Refusal where
  /-- An instruction that has no meaning yet. Safe. -/
  | notModelled (mnemonic : String)
  /-- Raised by a CMD write while BUSY = 1, or with an error pending and an opcode other than CLR or RST (10_state
  R22, 60_exceptions R277, 93 U9): no command starts, nothing changes. Safe: nothing is proved past it. -/
  | commandRefused
  /-- Raised by a host access to memory or to an RW register while BUSY = 1, which the spec gives no move
  (20_memory R80, 93 U9; log entry 15). Safe. -/
  | hostAccessWhileBusy
  deriving DecidableEq, Repr

/-- The machine after reset (10_state R54, 70_reset R300): every register zero but CFG = 2 and
ROOT = NONE, nothing valid, every memory and array unspecified. The model's own fields: no host action
pending, draw 0 used up by power-on, TIEBREAK left open. -/
def State.reset : State where
  busy := false
  ovf := false
  vHuf := false
  vSer := false
  err := 0
  einfo := 0
  arg0 := 0
  arg1 := 0
  res0 := 0
  res1 := 0
  res2 := 0
  cfg := 2
  tbase := 0
  pkCap := 0
  pkLen := 0
  rawCap := 0
  nSym := 0
  ssLen := 0
  dptr := 0
  drem := 0
  wlen := 0
  rlen := 0
  wptr := 0
  wacc := 0
  wcnt := 0
  rpos := 0
  rbit := 0
  tp := 0
  root := noneWord
  nnode := 0
  nleaf := 0
  tlen := 0
  nfix := 0
  pk := Memory.empty
  raw := Memory.empty
  ss := Memory.empty
  stLen := Memory.empty
  stData := Memory.empty
  freq := Memory.empty
  node := Memory.empty
  sfx := Memory.empty
  soff := Memory.empty
  code := Memory.empty
  fix := Memory.empty
  walk := Walk.none
  script := []
  hostRead := 0
  freeCtr := 1
  tie := .leftOpen

end Sys2Proof.Machine
end

