-- ==== Sys2Proof/Machine/Memory.lean ====
section
/-! DEFINITION. The operations on a memory or array: find, read, write, fill, blur, and its canonical
form (10_state R40 to R49). -/

namespace Sys2Proof.Machine

/-- The value listed for an address. -/
def cellsFind {α : Type} : List (Nat × α) → Nat → Option α
  | [], _ => none
  | (b, v) :: rest, a => if a = b then some v else cellsFind rest a

/-- Lists `v` for an address, in its place by address. -/
def cellsPut {α : Type} : List (Nat × α) → Nat → α → List (Nat × α)
  | [], a, v => [(a, v)]
  | (b, w) :: rest, a, v =>
    if a < b then (a, v) :: (b, w) :: rest
    else if a = b then (a, v) :: rest
    else (b, w) :: cellsPut rest a v

/-- The addresses of a list rise strictly, all from `lo` on. -/
def cellsRiseFrom {α : Type} : Nat → List (Nat × α) → Bool
  | _, [] => true
  | lo, (b, _) :: rest => decide (lo ≤ b) && cellsRiseFrom (b + 1) rest

/-- The draw that an unlisted address takes its value from. -/
def blurGen : List Blur → Nat → Nat
  | [], _ => 0
  | b :: rest, a => if b.lo ≤ a ∧ a < b.hi then b.gen else blurGen rest a

/-- The known value at an address, if there is one. -/
def Memory.find {α : Type} (m : Memory α) (a : Nat) : Option α := cellsFind m.cells a

/-- The value at an address: the listed one, else the free value of the draw that left the cell
unspecified. -/
def Memory.read {α : Type} (free : Nat → Nat → α) (m : Memory α) (a : Nat) : α :=
  match m.find a with
  | some v => v
  | none => free (blurGen m.blurs a) a

/-- Stores one cell. -/
def Memory.write {α : Type} (m : Memory α) (a : Nat) (v : α) : Memory α :=
  { m with cells := cellsPut m.cells a v }

/-- The cells `0 .. n - 1` of a fill, `i` holding `f i`, numbered from `k`. -/
def fillCells {α : Type} (f : Nat → α) : Nat → Nat → List (Nat × α)
  | _, 0 => []
  | k, n + 1 => (k, f k) :: fillCells f (k + 1) n

/-- Stores the cells `0 .. n - 1`, cell `i` with `f i`; the others keep what they hold. -/
def Memory.fill {α : Type} (m : Memory α) (n : Nat) (f : Nat → α) : Memory α :=
  { m with cells := fillCells f 0 n ++ m.cells.filter (fun c => decide (n ≤ c.1)) }

/-- Leaves the cells `lo .. hi - 1` unspecified, with the free values of draw `gen`. -/
def Memory.blur {α : Type} (m : Memory α) (lo hi gen : Nat) : Memory α :=
  if lo < hi then
    { cells := m.cells.filter (fun c => decide (c.1 < lo ∨ hi ≤ c.1)), blurs := ⟨lo, hi, gen⟩ :: m.blurs }
  else m

/-- Leaves the cells of these ranges, each `lo .. hi - 1`, unspecified, with the free values of draw `gen`. -/
def Memory.blurEach {α : Type} (m : Memory α) (gen : Nat) : List (Nat × Nat) → Memory α
  | [] => m
  | r :: rest => (m.blurEach gen rest).blur r.1 r.2 gen

/-- The ranges of single cells at these addresses. -/
def singleCells (l : List Nat) : List (Nat × Nat) := l.map (fun a => (a, a + 1))

/-- The canonical form: addresses strictly rising. -/
def Memory.wf {α : Type} (m : Memory α) : Bool := cellsRiseFrom 0 m.cells

end Sys2Proof.Machine
end

