-- ==== Sys2Proof/Machine/Operands.lean ====
section
/-! DEFINITION. What the commands read: operand bits of ARG0 and ARG1 (10_state R25, 30_encoding R111),
cells of the memory spaces and entries of the internal arrays (10_state R40 to R49). -/

namespace Sys2Proof.Machine

/-! ### Operand registers -/

/-- ARG0[0]: the bit of BW_PUT (R133), the mode of DEC_SYM (R221); the other bits are ignored (R111). -/
def State.arg0Bit (s : State) : Bool := s.arg0.getLsbD 0

/-- ARG1[0]: the mode of DEC_BLOCK (R222). -/
def State.arg1Bit (s : State) : Bool := s.arg1.getLsbD 0

/-- ARG1[2:0]: the bit offset of BR_SEEK (R137). -/
def State.seekBits (s : State) : Nat := s.arg1.toNat % 8

/-- The low and the high half of a 64-bit result (R165, R193). -/
def lowWord (n : Nat) : Word := BitVec.ofNat 32 n
def highWord (n : Nat) : Word := BitVec.ofNat 32 (n / 2 ^ 32)

/-! ### Memory spaces -/

/-- PK[a] (R40). -/
def State.pkByte (s : State) (a : Nat) : Byte := s.pk.read (Config.freeByte .pk) a

/-- RAW[a] (R41). -/
def State.rawByte (s : State) (a : Nat) : Byte := s.raw.read (Config.freeByte .raw) a

/-- The 17 bits of SS[i] (R42). -/
def State.ssBits (s : State) (i : Nat) : BitVec 17 := s.ss.read Config.freeToken i

/-- A token from its bits: bit 16 is Split, bits 15:0 are otherwise the id (R42). -/
def tokenOf (t : BitVec 17) : Token :=
  if t.getLsbD 16 then .split else .sym (t.toNat % 65536)

/-- SS[i] as a token (R42). -/
def State.token (s : State) (i : Nat) : Token := tokenOf (s.ssBits i)

/-- The tokens SS[0 .. SS_LEN - 1] (R70). -/
def State.tokens (s : State) : List Token := (List.range s.ssLen.toNat).map s.token

/-- Where ST_DATA[id][k] is listed: 255 bytes per id (R43). -/
def stDataKey (id k : Nat) : Nat := 255 * id + k

/-- len(id) = ST_LEN[id] (R43). -/
def State.symLen (s : State) (id : Nat) : Nat := (s.stLen.read (Config.freeByte .stLen) id).toNat

/-- ST_DATA[id][k] (R43). -/
def State.symByte (s : State) (id k : Nat) : Byte :=
  s.stData.read (Config.freeByte .stData) (stDataKey id k)

/-- bytes(id) = ST_DATA[id][0 .. len(id) - 1] (R43). -/
def State.symBytes (s : State) (id : Nat) : List Byte :=
  (List.range (s.symLen id)).map (s.symByte id)

/-! ### Internal arrays -/

/-- FREQ[id] (R44). -/
def State.freqOf (s : State) (id : Nat) : Word := s.freq.read (Config.freeEntry .freq) id

/-- SFX[id], an id or NONE (R46). -/
def State.sfxOf (s : State) (id : Nat) : Word := s.sfx.read (Config.freeEntry .sfx) id

/-- SOFF[id] (R47). -/
def State.soffOf (s : State) (id : Nat) : Word := s.soff.read (Config.freeEntry .soff) id

/-- CODE[id], at most 65535 bits (R48). -/
def State.codeOf (s : State) (id : Nat) : List Bool := (s.code.read Config.freeCode id).take 65535

/-- A symbol is visited when it is in the alphabet and FREQ[id] is at least 1 (R44). -/
def State.visited (s : State) (id : Nat) : Bool :=
  decide (id < s.nSym.toNat) && decide (s.freqOf id ≠ 0)

/-- The visited symbols, ascending. -/
def State.visitedIds (s : State) : List Nat :=
  (List.range s.nSym.toNat).filter (fun id => decide (s.freqOf id ≠ 0))

/-- The ids that an array has entries for, of an alphabet of N_SYM symbols (R31, R44). -/
def State.idBound (s : State) : Nat := min s.nSym.toNat 65536

/-- CFG.SUFFIX_MIN (R27). -/
def State.suffixMin (s : State) : Nat := s.cfg.toNat

end Sys2Proof.Machine
end

