-- ==== Sys2Proof/Machine/Flags.lean ====
section
/-! DEFINITION. STATUS and its flags (10_state R23, R37). -/

namespace Sys2Proof.Machine

/-- STATUS as its eight bits: BUSY, OVF, V_HUF, V_SER in bits 0 to 3, ERR in bits 7:4 (R23). -/
def State.status (s : State) : Byte :=
  BitVec.ofNat 8 (s.busy.toNat + 2 * s.ovf.toNat + 4 * s.vHuf.toNat + 8 * s.vSer.toNat + 16 * s.err.toNat)

/-- Sets OVF: a byte was dropped (R65, R67, R264). -/
def setOvf (s : State) : State := { s with ovf := true }

/-- Clears V_SER (a host write to CFG, the start of SER_BUILD). -/
def clearTable (s : State) : State := { s with vSer := false }

/-- Clears V_HUF and V_SER (a host write to N_SYM or SS_LEN, the start of HUF_BUILD or EST_SIZE). -/
def clearTree (s : State) : State := { s with vHuf := false, vSer := false }

/-- Whether a CMD write starts its command: not BUSY, and no error pending unless the command is CLR or
RST, which `always` marks (R22, R277). -/
def State.accepts (s : State) (always : Bool) : Bool := !s.busy && (always || decide (s.err = 0))

/-- The writer is aligned (R37). -/
def State.aligned (s : State) : Bool := decide (s.wcnt = 0)

end Sys2Proof.Machine
end

