-- ==== Sys2Proof/Machine/Ops.lean ====
section
/-! DEFINITION. The shared operations: causes and the taking of a fault (60_exceptions R260, R271), the
run of a command (R22, R274, R277), and the primitives over PK and RAW (20_memory R64, R65, R67). -/

namespace Sys2Proof.Machine

/-! ### Faults -/

/-- What a command can raise, with the value EINFO records (60_exceptions R260). -/
inductive Cause where
  | formatLimit (v : Nat)
  | verifyFail (v : Nat)
  | malformedStream (p : Nat)
  | rangeFault (a : Nat)
  | operand (x : Nat)
  | stateFault (op : Nat)
  | illegalCommand (op : Nat)
  deriving DecidableEq, Repr

/-- The code in STATUS.ERR (R260). -/
def Cause.code : Cause → BitVec 4
  | .formatLimit _ => 3
  | .verifyFail _ => 4
  | .malformedStream _ => 5
  | .rangeFault _ => 8
  | .operand _ => 9
  | .stateFault _ => 10
  | .illegalCommand _ => 11

/-- The value EINFO records (R260). -/
def Cause.info : Cause → Nat
  | .formatLimit v | .verifyFail v | .malformedStream v | .rangeFault v | .operand v
  | .stateFault v | .illegalCommand v => v

/-- TAKING A FAULT, `raise` (R271): ERR and EINFO are written, BUSY is cleared, the command ends. Nothing
is saved, no mode changes, control goes nowhere. The draw of free values that the fault used is counted
(log entry 2). -/
def takeFault (c : Cause) (s : State) : State :=
  { s with
    err := c.code
    einfo := BitVec.ofNat 32 c.info
    busy := false
    walk := Walk.none
    freeCtr := s.freeCtr + 1 }

/-- THE RETURN FROM A FAULT (R275): the acknowledge clears ERR and OVF and nothing else (R251). -/
def acknowledge (s : State) : State := { s with err := 0, ovf := false }

/-! ### The run of a command -/

/-- What a piece of a command's pseudocode does: it goes on with a value, raises a cause in the state
reached so far, or stops for good. -/
inductive Res (α : Type) where
  | ok (a : α) (s : State)
  | raise (c : Cause) (s : State)
  | stop (f : Fault)
  deriving DecidableEq, Repr

/-- One piece of pseudocode after another. -/
def Res.bind {α β : Type} (r : Res α) (k : α → State → Res β) : Res β :=
  match r with
  | .ok a s => k a s
  | .raise c s => .raise c s
  | .stop f => .stop f

/-- A check or a pure function of the pseudocode, which may raise. -/
def Res.ofExcept {α : Type} (e : Except Cause α) (s : State) : Res α :=
  match e with
  | .ok a => .ok a s
  | .error c => .raise c s

/-- A command, started by a CMD write (R22). One that is not accepted is refused: it does not start and
nothing changes (R277). An accepted one runs to completion inside this step (00_scope R7, so BUSY is never
seen set). On a fault, `spoil` leaves unspecified what the command's rule lists as
written (R272), given the states before the command and at the fault, and the fault is taken (R271). -/
def command (always : Bool) (spoil : State → State → State) (body : State → Res Unit) (s : State) :
    Host.Outcome State Fault Refusal :=
  if s.accepts always then
    match body s with
    | .ok _ t => .next t
    | .raise c t => .next (takeFault c (spoil s t))
    | .stop f => .fault f
  else .refused .commandRefused

/-! ### PK and RAW -/

/-- `PkRead(a)` (R64). -/
def pkRead (a : Nat) (s : State) : Res Byte :=
  if s.pkLen.toNat ≤ a then .raise (.rangeFault (a % 2 ^ 32)) s else .ok (s.pkByte a) s

/-- `PkWrite(a, v)` (R65): stored below PK_CAP, else dropped with OVF set; WLEN is the running maximum. -/
def pkWrite (a : Nat) (v : Byte) (s : State) : State :=
  let t := if a < s.pkCap.toNat then { s with pk := s.pk.write a v } else setOvf s
  { t with wlen := BitVec.ofNat 32 (max s.wlen.toNat (a + 1)) }

/-- `WAppend(v)` (40_bitio R130). -/
def wAppend (v : Byte) (s : State) : Res Unit :=
  if s.wptr = 0xFFFFFFFF then .raise (.formatLimit s.wptr.toNat) s
  else .ok () { pkWrite s.wptr.toNat v s with wptr := s.wptr + 1 }

/-- Appends bytes in order. -/
def appendAll : List Byte → State → Res Unit
  | [], s => .ok () s
  | v :: rest, s => (wAppend v s).bind fun _ t => appendAll rest t

/-- One byte of a symbol has been emitted: DPTR on, DREM down, counted (R67, R217). -/
def emitted (s : State) : State :=
  { s with dptr := s.dptr + 1, drem := s.drem - 1, walk := { s.walk with count := s.walk.count + 1 } }

/-- `RawEmit(v, mode)` (R67), the mode being the walk's. -/
def rawEmit (v : Byte) (s : State) : Res Unit :=
  if s.drem = 0 then .raise (.malformedStream s.tp.toNat) s
  else if s.walk.verify then
    if s.rawCap.toNat ≤ s.dptr.toNat ∨ s.rawByte s.dptr.toNat ≠ v then
      .raise (.verifyFail s.dptr.toNat) s
    else .ok () (emitted s)
  else
    let t := if s.dptr.toNat < s.rawCap.toNat then { s with raw := s.raw.write s.dptr.toNat v }
             else setOvf s
    .ok () (emitted { t with rlen := BitVec.ofNat 32 (max s.rlen.toNat (s.dptr.toNat + 1)) })

end Sys2Proof.Machine
end

