-- ==== Sys2Proof/Machine/Spoil.lean ====
section
/-! DEFINITION. What a fault leaves unspecified (60_exceptions R272, 70_reset R320, 93 U2): for each
command, the registers, array entries and memory cells that its rule lists as written take free values of
the draw `s.freeCtr`; ERR, EINFO, OVF, BUSY and the validity flags are not among them. Of PK and RAW these
are the cells that the bytes of this command can reach, from its start address on and below the capacity; of
an array, the entries that its rule can write (log entry 8). Each function takes the state before the command
and the state at the fault, and what varies of these: a number of bytes or of fixups, the ranges of ids. -/

namespace Sys2Proof.Machine

/-- The free value that the draw of this fault leaves in a register. -/
def State.draw (s : State) (r : Reg) : Word := Config.freeReg s.freeCtr r

/-- RES0 is unspecified. -/
def spoilRes0 (s : State) : State := { s with res0 := s.draw .res0 }

/-- RES0 and RES1 are unspecified. -/
def spoilRes01 (s : State) : State := { s with res0 := s.draw .res0, res1 := s.draw .res1 }

/-- WPTR, WLEN and the `n` PK cells from `lo` on, below PK_CAP, are unspecified: what appending `n` bytes
writes (R130, R65). -/
def spoilAppend (lo n : Nat) (s : State) : State :=
  { s with
    wptr := s.draw .wptr
    wlen := s.draw .wlen
    pk := s.pk.blur lo (min s.pkCap.toNat (lo + n)) s.freeCtr }

/-- WCNT and WACC are unspecified, but the bits of WACC from WCNT on are 0 all the same (R32). -/
def spoilPartial (s : State) : State :=
  { s with
    wcnt := (s.draw .wcnt).setWidth 3
    wacc := BitVec.ofNat 8 ((s.draw .wacc).toNat % 2 ^ ((s.draw .wcnt).setWidth 3).toNat) }

/-- FREQ of the alphabet's ids, NODE, NNODE, NLEAF and ROOT are unspecified: what HUF_BUILD's body writes (R161),
a tree over `n` visited symbols having `2 n - 1` nodes (R45). -/
def spoilTree (n : Nat) (s : State) : State :=
  { s with
    freq := s.freq.blur 0 s.idBound s.freeCtr
    node := s.node.blur 0 (2 * n - 1) s.freeCtr
    nnode := s.draw .nnode
    nleaf := s.draw .nleaf
    root := s.draw .root }

/-- SFX of the ids in `ids` is unspecified: what `sfx_all` writes (R183). -/
def spoilSfx (ids : List (Nat × Nat)) (s : State) : State := { s with sfx := s.sfx.blurEach s.freeCtr ids }

/-- SOFF and CODE of the ids in `ids`, the first `k` entries of FIX, TLEN and NFIX are unspecified: what SER_BUILD
writes beside the writer (R189, R190), `k` being its fixups. -/
def spoilTable (ids : List (Nat × Nat)) (k : Nat) (s : State) : State :=
  { s with
    soff := s.soff.blurEach s.freeCtr ids
    code := s.code.blurEach s.freeCtr ids
    fix := s.fix.blur 0 k s.freeCtr
    tlen := s.draw .tlen
    nfix := s.draw .nfix }

/-- RPOS, RBIT, TP, DPTR and DREM are unspecified: what a decode walk writes in both modes (R221). -/
def spoilReader (s : State) : State :=
  { s with
    rpos := s.draw .rpos
    rbit := (s.draw .rbit).setWidth 3
    tp := s.draw .tp
    dptr := s.draw .dptr
    drem := s.draw .drem }

/-- RLEN and the `n` RAW cells from `lo` on, below RAW_CAP, are unspecified: what write-mode emission of `n`
bytes writes (R67). -/
def spoilRaw (lo n : Nat) (s : State) : State :=
  { s with rlen := s.draw .rlen, raw := s.raw.blur lo (min s.rawCap.toNat (lo + n)) s.freeCtr }

/-! ### Per command -/

/-- A command whose rule raises nothing. -/
def spoilNone (_ t : State) : State := t

/-- BW_PUT, BW_FLUSH (R133, R134) and ENC_SYM (R240), which append at most `n` bytes. -/
def spoilPut (n : Nat) (s t : State) : State := spoilPartial (spoilAppend s.wptr.toNat n t)

/-- VLI_ENC (R152): at most the three bytes of a VLI. -/
def spoilVliEnc (s t : State) : State := spoilRes0 (spoilAppend s.wptr.toNat 3 t)

/-- VLI_DEC (R153), HUF_BITS (R165), SFX_FIND (R182): the two results. -/
def spoilTwoResults (_ t : State) : State := spoilRes01 t

/-- HUF_BUILD (R161), whose tree has `n` leaves. -/
def spoilHufBuild (n : Nat) (_ t : State) : State := spoilRes01 (spoilTree n t)

/-- SER_SIZE (R186), which writes SFX of `ids`. -/
def spoilSerSize (ids : List (Nat × Nat)) (_ t : State) : State := spoilRes0 (spoilSfx ids t)

/-- SER_BUILD (R190), which writes SFX of `ids`, and whose table has leaves for `leaves`, `n` bytes and `k`
fixups. -/
def spoilSerBuild (ids leaves : List (Nat × Nat)) (n k : Nat) (s t : State) : State :=
  spoilRes0 (spoilTable leaves k (spoilSfx ids (spoilPartial (spoilAppend s.tbase.toNat n t))))

/-- EST_SIZE (R193), over the symbols `ids` that its tree has leaves for. -/
def spoilEstSize (ids : List Nat) (_ t : State) : State :=
  let u := spoilRes01 (spoilSfx (singleCells ids) (spoilTree ids.length t))
  { u with res2 := u.draw .res2 }

/-- ENC_BLOCK (R241), which appends at most `n` bytes. -/
def spoilEncBlock (n : Nat) (s t : State) : State := spoilRes01 (spoilPut n s t)

/-- DEC_SYM, DEC_BLOCK and the nodes of their walk (R221, R222), `verify` being the mode and `n` the bytes that
may still be emitted (10_state R35). -/
def spoilDecode (verify : Bool) (n : Nat) (s t : State) : State :=
  let u := spoilRes0 (spoilReader t)
  if verify then u else spoilRaw s.dptr.toNat n u

end Sys2Proof.Machine
end

