-- ==== Sys2Proof/Machine/BitIo.lean ====
section
/-! DEFINITION. The bit writer and the bit reader: BW_INIT, BW_PUT, BW_FLUSH, BR_SEEK, BR_READ
(40_bitio R130 to R137). -/

namespace Sys2Proof.Machine

/-- `BitPut(b)` (R131). -/
def bitPut (b : Bool) (s : State) : Res Unit :=
  let acc := BitVec.ofNat 8 (s.wacc.toNat ||| (b.toNat <<< s.wcnt.toNat))
  if s.wcnt = 7 then
    (wAppend acc s).bind fun _ t => .ok () { t with wacc := 0, wcnt := 0 }
  else .ok () { s with wacc := acc, wcnt := s.wcnt + 1 }

/-- Puts bits in order, the first one first. -/
def putAll : List Bool → State → Res Unit
  | [], s => .ok () s
  | b :: rest, s => (bitPut b s).bind fun _ t => putAll rest t

/-- The flush of R134: the partial byte, if there is one, is written and the writer is aligned. -/
def flush (s : State) : Res Unit :=
  if s.aligned then .ok () s
  else (wAppend s.wacc s).bind fun _ t => .ok () { t with wacc := 0, wcnt := 0 }

/-- `BitRead()` (R135): past the end of PK the bit is 0 and the reader stays. -/
def bitRead (s : State) : Bool × State :=
  if s.pkLen.toNat ≤ s.rpos.toNat then (false, s)
  else
    ((s.pkByte s.rpos.toNat).getLsbD s.rbit.toNat,
      if s.rbit = 7 then { s with rbit := 0, rpos := s.rpos + 1 } else { s with rbit := s.rbit + 1 })

/-- `n` BitReads whose results are discarded (R137). -/
def skipBits : Nat → State → State
  | 0, s => s
  | n + 1, s => skipBits n (bitRead s).2

/-- BW_INIT (R132). -/
def execBwInit (s : State) : Host.Outcome State Fault Refusal :=
  command false spoilNone (fun s => .ok () { s with wptr := s.arg0, wacc := 0, wcnt := 0 }) s

/-- BW_PUT (R133). -/
def execBwPut (s : State) : Host.Outcome State Fault Refusal :=
  command false (spoilPut 1) (fun s => bitPut s.arg0Bit s) s

/-- BW_FLUSH (R134). -/
def execBwFlush (s : State) : Host.Outcome State Fault Refusal :=
  command false (spoilPut 1) flush s

/-- BR_SEEK (R137). -/
def execBrSeek (s : State) : Host.Outcome State Fault Refusal :=
  command false spoilNone
    (fun s => .ok () (skipBits s.seekBits { s with rpos := s.arg0, rbit := 0 })) s

/-- BR_READ (R136). -/
def execBrRead (s : State) : Host.Outcome State Fault Refusal :=
  command false spoilNone
    (fun s => .ok () { (bitRead s).2 with res0 := BitVec.ofNat 32 (bitRead s).1.toNat }) s

end Sys2Proof.Machine
end

