-- ==== Sys2Proof/Machine/Huffman.lean ====
section
/-! DEFINITION. The Huffman tree builder: HUF_BUILD, HUF_BITS (42_huffman R160 to R165, 10_state R44,
R45). -/

namespace Sys2Proof.Machine

/-! ### Counting (R161 step 1) -/

/-- The first token, in index order, whose id is not in an alphabet of `n` symbols (R70). -/
def firstForeign (n : Nat) : List Token → Option Nat
  | [] => none
  | .split :: rest => firstForeign n rest
  | .sym id :: rest => if n ≤ id then some id else firstForeign n rest

/-- The number of `Sym(id)` tokens (R44). -/
def countSym (id : Nat) : List Token → Nat
  | [] => 0
  | .split :: rest => countSym id rest
  | .sym j :: rest => if j = id then countSym id rest + 1 else countSym id rest

/-! ### The arena (R161 steps 2 and 3) -/

/-- The count field of an entry. -/
def Node.count : Node → Word
  | .leaf _ c => c
  | .internal _ _ c => c

/-- `count(n)` of entry `n` of an arena under construction. -/
def countAt (nodes : List Node) (n : Nat) : Nat :=
  match nodes[n]? with
  | some e => e.count.toNat
  | none => 0

/-- One leaf per visited id, ascending (R161 step 2, R45). -/
def leavesOf (freq : Nat → Word) : List Nat → List Node
  | [] => []
  | id :: rest => if freq id = 0 then leavesOf freq rest else .leaf id (freq id) :: leavesOf freq rest

/-- The least count among the nodes of a queue, `c` being the least so far. -/
def leastCount (nodes : List Node) : Nat → List Nat → Nat
  | c, [] => c
  | c, n :: rest => leastCount nodes (min c (countAt nodes n)) rest

/-- The nodes of a queue that share its least count, in the queue's order (ascending index). -/
def leastNodes (nodes : List Node) (q : List Nat) : List Nat :=
  match q with
  | [] => []
  | n :: rest =>
    let m := leastCount nodes (countAt nodes n) rest
    (n :: rest).filter (fun k => decide (countAt nodes k = m))

/-- Which of the least-count nodes the queue yields (R162): the reference choice is the first, the least
index; the choice left open is any of them. -/
def chooseTie (tie : TieRule) (cands : List Nat) : Option Nat :=
  match tie with
  | .reference => cands.head?
  | .leftOpen => cands[Config.tiebreak cands % cands.length]?

/-- `popmin(Q)` (R162): the node yielded, and the queue without it. -/
def popMin (tie : TieRule) (nodes : List Node) (q : List Nat) : Option (Nat × List Nat) :=
  match chooseTie tie (leastNodes nodes q) with
  | some n => some (n, q.erase n)
  | none => none

/-- At most `k` merges of the two lowest-count nodes, while the queue has two (R161 step 3). The queue
lists node indices in ascending order: a new entry has the greatest. -/
def combine (tie : TieRule) : Nat → List Node → List Nat → List Node × List Nat
  | 0, nodes, q => (nodes, q)
  | k + 1, nodes, q =>
    match popMin tie nodes q with
    | none => (nodes, q)
    | some (a, q1) =>
      match popMin tie nodes q1 with
      | none => (nodes, q)
      | some (b, q2) =>
        combine tie k
          (nodes ++ [.internal a b (BitVec.ofNat 32 (countAt nodes a + countAt nodes b))])
          (q2 ++ [nodes.length])

/-- The whole arena over its leaves, and what is left in the queue: `NLEAF - 1` merges leave one node. -/
def buildArena (tie : TieRule) (leaves : List Node) : List Node × List Nat :=
  combine tie (leaves.length - 1) leaves (List.range leaves.length)

/-- ROOT: the element left in the queue, NONE when there was no leaf (R161). -/
def rootOf : List Nat → Word
  | [r] => BitVec.ofNat 32 r
  | _ => noneWord

/-- The counts of HUF_BUILD over the present SS. -/
def State.countOf (s : State) (id : Nat) : Word := BitVec.ofNat 32 (countSym id s.tokens)

/-- The symbols that occur in the present SS, ascending: those that HUF_BUILD makes leaves for (R161). -/
def State.countedIds (s : State) : List Nat :=
  (List.range s.idBound).filter (fun id => decide (s.countOf id ≠ 0))

/-- The leaves of HUF_BUILD over the present SS. -/
def State.newLeaves (s : State) : List Node := leavesOf s.countOf (List.range s.nSym.toNat)

/-- The arena of HUF_BUILD over the present SS. -/
def State.newArena (s : State) : List Node × List Nat := buildArena s.tie s.newLeaves

/-- What HUF_BUILD's body writes to the tree arrays and registers. FREQ[id] and NODE[n] beyond those
written keep what they hold. -/
def writeTree (s : State) : State :=
  let arena := s.newArena
  { s with
    freq := s.freq.fill s.nSym.toNat s.countOf
    node := s.node.fill arena.1.length (fun n => arena.1.getD n (.leaf 0 0))
    nleaf := BitVec.ofNat 32 s.newLeaves.length
    nnode := BitVec.ofNat 32 arena.1.length
    root := rootOf arena.2 }

/-- The body of HUF_BUILD up to the results (R161): V_HUF and V_SER are cleared at its start; setting
V_HUF is left to the command's completion (10_state R23; log entry 9). -/
def buildTree (s : State) : Res Unit :=
  let s := clearTree s
  if 65536 < s.nSym.toNat then .raise (.operand s.nSym.toNat) s
  else
    match firstForeign s.nSym.toNat s.tokens with
    | some id => .raise (.operand id) s
    | none => .ok () (writeTree s)

/-- HUF_BUILD (R161). -/
def execHufBuild (s : State) : Host.Outcome State Fault Refusal :=
  command false (spoilHufBuild s.countedIds.length)
    (fun s => (buildTree s).bind fun _ t =>
      .ok () { t with res0 := t.nleaf, res1 := t.nnode, vHuf := true }) s

/-! ### The tree under ROOT -/

/-- The tree that NODE holds (R45), with its indices followed. -/
inductive HTree where
  | leaf (sym : Nat) (count : Word)
  | node (a b : HTree)
  deriving DecidableEq, Repr

/-- The tree under entry `n`, at most `k` entries deep. -/
def treeAt (node : Memory Node) : Nat → Nat → Option HTree
  | 0, _ => none
  | k + 1, n =>
    match node.find n with
    | none => none
    | some (.leaf sym c) => some (.leaf sym c)
    | some (.internal a b _) =>
      match treeAt node k a, treeAt node k b with
      | some l, some r => some (.node l r)
      | _, _ => none

/-- The tree under ROOT: none of it when ROOT is NONE; no tree at all when NODE does not hold one, which
no run reaches. A tree of NNODE entries is at most NNODE deep. -/
def State.tree (s : State) : Option (Option HTree) :=
  if s.root = noneWord then some none
  else
    match treeAt s.node s.nnode.toNat s.root.toNat with
    | some t => some (some t)
    | none => none

/-- Goes on with the tree under ROOT. -/
def withTree {α : Type} (k : Option HTree → State → Res α) (s : State) : Res α :=
  match s.tree with
  | some t => k t s
  | none => .stop .treeBroken

/-- `tb(n, depth)` (R165). -/
def treeBitsAt : HTree → Nat → Nat
  | .leaf _ c, depth => c.toNat * depth
  | .node a b, depth => treeBitsAt a (depth + 1) + treeBitsAt b (depth + 1)

/-- `tree_bits(r)` (R165). -/
def treeBits : Option HTree → Nat
  | none => 0
  | some t => treeBitsAt t 0

/-- HUF_BITS (R165). -/
def execHufBits (s : State) : Host.Outcome State Fault Refusal :=
  command false spoilTwoResults
    (fun s =>
      if s.vHuf then
        withTree (fun t s => .ok () { s with res0 := lowWord (treeBits t), res1 := highWord (treeBits t) }) s
      else .raise (.stateFault 0x31) s) s

end Sys2Proof.Machine
end

