-- ==== Sys2Proof/Machine/BlockEncode.lean ====
section
/-! DEFINITION. Bit-packing a block's symbols: ENC_SYM, ENC_BLOCK (45_block_encode R240, R241). -/

namespace Sys2Proof.Machine

/-- Puts the code of a symbol, which must be in the alphabet and visited (R240, R241). N_SYM above 65536
raises (10_state R31). -/
def encodeSym (id : Nat) (s : State) : Res Unit :=
  if 65536 < s.nSym.toNat then .raise (.operand s.nSym.toNat) s
  else if s.visited id then putAll (s.codeOf id) s
  else .raise (.operand id) s

/-- The bytes that putting `k` bits completes. -/
def State.bytesPut (s : State) (k : Nat) : Nat := (s.wcnt.toNat + k) / 8

/-- ENC_SYM (R240). -/
def execEncSym (s : State) : Host.Outcome State Fault Refusal :=
  command false (spoilPut (s.bytesPut (s.codeOf s.arg0.toNat).length))
    (fun s =>
      if s.vSer then encodeSym s.arg0.toNat s else .raise (.stateFault 0x50) s) s

/-- Codes the tokens from index `k` on, at most `n` of them, up to a Split; the index reached (R241). -/
def encodeRun : Nat → Nat → State → Res Nat
  | 0, k, s => .ok k s
  | n + 1, k, s =>
    match s.token k with
    | .split => .ok k s
    | .sym id => (encodeSym id s).bind fun _ t => encodeRun n (k + 1) t

/-- The code bits of the tokens from index `k` on, at most `n` of them, up to a Split (R241). -/
def runBits : Nat → Nat → State → Nat
  | 0, _, _ => 0
  | n + 1, k, s =>
    match s.token k with
    | .split => 0
    | .sym id => (s.codeOf id).length + runBits n (k + 1) s

/-- The bytes of the block that ENC_BLOCK codes: its code bits, padded to a byte (R241). -/
def State.blockBytes (s : State) : Nat :=
  s.bytesPut (runBits (s.ssLen.toNat - s.arg0.toNat) s.arg0.toNat s + 7)

/-- ENC_BLOCK (R241). -/
def execEncBlock (s : State) : Host.Outcome State Fault Refusal :=
  command false (spoilEncBlock s.blockBytes)
    (fun s =>
      if s.vSer then
        if s.aligned then
          (encodeRun (s.ssLen.toNat - s.arg0.toNat) s.arg0.toNat { s with res0 := s.wptr }).bind fun k s =>
            (flush s).bind fun _ s =>
              .ok () { s with res1 := BitVec.ofNat 32 (if k < s.ssLen.toNat then k + 1 else k) }
        else .raise (.operand s.wcnt.toNat) s
      else .raise (.stateFault 0x51) s) s

end Sys2Proof.Machine
end

