-- ==== Sys2Proof/Machine/Control.lean ====
section
/-! DEFINITION. Housekeeping: NOP, CLR, RST (46_control R250 to R252), the reset event (70_reset R300) and
an opcode that is no command (30_encoding R111). -/

namespace Sys2Proof.Machine

/-- NOP (R250): nothing changes. -/
def execNop (s : State) : Host.Outcome State Fault Refusal :=
  command false spoilNone (fun s => .ok () s) s

/-- CLR (R251). -/
def execClr (s : State) : Host.Outcome State Fault Refusal :=
  command true spoilNone (fun s => .ok () (acknowledge s)) s

/-- Every register at its reset value, STATUS 0; memories, arrays, the host's side and the model's
parameters keep what they hold (R252). -/
def resetRegisters (s : State) : State :=
  { State.reset with
    pk := s.pk
    raw := s.raw
    ss := s.ss
    stLen := s.stLen
    stData := s.stData
    freq := s.freq
    node := s.node
    sfx := s.sfx
    soff := s.soff
    code := s.code
    fix := s.fix
    script := s.script
    hostRead := s.hostRead
    freeCtr := s.freeCtr
    tie := s.tie }

/-- RST (R252). -/
def execRst (s : State) : Host.Outcome State Fault Refusal :=
  command true spoilNone (fun s => .ok () (resetRegisters s)) s

/-- The reset event (R300): the registers as after RST, every memory cell and array entry unspecified. -/
def externalReset (s : State) : State :=
  let t := resetRegisters s
  { t with
    pk := s.pk.blur 0 (2 ^ 32) s.freeCtr
    raw := s.raw.blur 0 (2 ^ 32) s.freeCtr
    ss := s.ss.blur 0 (2 ^ 32) s.freeCtr
    stLen := s.stLen.blur 0 65536 s.freeCtr
    stData := s.stData.blur 0 (255 * 65536) s.freeCtr
    freq := s.freq.blur 0 65536 s.freeCtr
    node := s.node.blur 0 131071 s.freeCtr
    sfx := s.sfx.blur 0 65536 s.freeCtr
    soff := s.soff.blur 0 65536 s.freeCtr
    code := s.code.blur 0 65536 s.freeCtr
    fix := s.fix.blur 0 65536 s.freeCtr
    freeCtr := s.freeCtr + 1 }

/-- A CMD write of an opcode that R110 does not list: when a command would be accepted, it raises
IllegalCommand(opcode) and does nothing else (R111, R269). -/
def illegalCommand (c : Byte) (s : State) : Host.Outcome State Fault Refusal :=
  command false spoilNone (fun s => .raise (.illegalCommand c.toNat) s) s

end Sys2Proof.Machine
end

