-- ==== Sys2Proof/Syntax.lean ====
section
/-! DEFINITION. The instructions of HTBP: one constructor per row of spec/opcode_table.json, in the
table's order (30_encoding R90 to R97, R110). The operands of a command stand in ARG0 and ARG1
(10_state R25), so a command carries none. A node format carries the bytes of its fixed part; the
string bytes of a LEAF.S or LEAF.X and the offset of a LEAF.X stay in PK, where the walk reads them
one at a time in the order of 44_decode R214, R215. -/

namespace Sys2Proof

/-- The three encodings an instruction is read from (30_encoding R90). Their first bytes overlap, so
a decoder is told which one it reads. -/
inductive Layer where
  | command   -- the opcode written to CMD (R110)
  | node      -- a node of the serialized table (R92)
  | vli       -- a variable-length integer (R91)
  deriving DecidableEq, Repr

/-- The instructions. -/
inductive Instr where
  | nop | clr | rst
  | bwInit | bwPut | bwFlush | brSeek | brRead
  | vliEnc | vliDec
  | hufBuild | hufBits
  | sfxFind | serSize | serBuild | estSize
  | encSym | encBlock
  | decSym | decBlock
  /-- LEAF.B: tag 0x00, `data` (R93). -/
  | leafB (data : Byte)
  /-- LEAF.S: tag 0x01, `n`; `n` string bytes follow (R94). -/
  | leafS (n : Byte)
  /-- LEAF.X: tag 0x02, `n`; `n` partial bytes, `off_lo`, `off_hi` follow (R96). -/
  | leafX (n : Byte)
  /-- BR: the header byte is the skip value `V` (R95). -/
  | br (h : Byte)
  /-- BRL: 0xFF, `lo`, `hi`; `V = lo + 256 hi` (R95). -/
  | brl (lo hi : Byte)
  /-- VLI.SHORT: the value itself (R91). -/
  | vliShort (b0 : Byte)
  /-- VLI.LONG: 0xFF, `lo`, `hi` (R91). -/
  | vliLong (lo hi : Byte)
  deriving DecidableEq, Repr

end Sys2Proof
end

