-- ==== Sys2Proof/WellFormed.lean ====
section
/-! DEFINITION. Which terms of `Instr` an encoding exists for (30_encoding R91, R92). -/

namespace Sys2Proof

/-- A BR's header byte is 0x03 .. 0xFE (R92: 0 to 2 are the leaf tags, 0xFF is BRL); a VLI.SHORT's
byte is not the escape 0xFF (R91). Every other term has an encoding. -/
def Instr.wellFormed : Instr → Bool
  | .br h => decide (3 ≤ h.toNat ∧ h.toNat ≤ 254)
  | .vliShort b0 => decide (b0.toNat ≤ 254)
  | .nop | .clr | .rst | .bwInit | .bwPut | .bwFlush | .brSeek | .brRead | .vliEnc | .vliDec
  | .hufBuild | .hufBits | .sfxFind | .serSize | .serBuild | .estSize | .encSym | .encBlock
  | .decSym | .decBlock | .leafB _ | .leafS _ | .leafX _ | .brl _ _ | .vliLong _ _ => true

end Sys2Proof
end

