-- ==== Sys2Proof/Decode.lean ====
section
/-! DEFINITION. The decoder of each layer, total on any bytes, rejecting by name, and the encoder
(30_encoding R90 to R99, R110, R111). -/

namespace Sys2Proof

/-- Why no instruction could be read. -/
inductive DecodeError where
  /-- An opcode that R110 does not list (R111). -/
  | illegalOpcode (c : Byte)
  /-- The bytes end before the instruction's fixed part does. -/
  | truncated
  deriving DecidableEq, Repr

/-- The command of an opcode (R110); none for every other byte (R111). -/
def decodeCommand (c : Byte) : Option Instr :=
  match c.toNat with
  | 0x00 => some .nop
  | 0x01 => some .clr
  | 0x02 => some .rst
  | 0x10 => some .bwInit
  | 0x11 => some .bwPut
  | 0x12 => some .bwFlush
  | 0x13 => some .brSeek
  | 0x14 => some .brRead
  | 0x20 => some .vliEnc
  | 0x21 => some .vliDec
  | 0x30 => some .hufBuild
  | 0x31 => some .hufBits
  | 0x40 => some .sfxFind
  | 0x41 => some .serSize
  | 0x42 => some .serBuild
  | 0x43 => some .estSize
  | 0x50 => some .encSym
  | 0x51 => some .encBlock
  | 0x60 => some .decSym
  | 0x61 => some .decBlock
  | _ => none

/-- The choice of a node's form by its header byte `h` (R92), `b1` and `b2` the bytes after it. The
decoder takes the forms' constructors for the five continuations, the decode walk their meanings. -/
def caseNode {α : Type} (h b1 b2 : Byte) (leafB leafS leafX br : Byte → α)
    (brl : Byte → Byte → α) : α :=
  if h = 0x00 then leafB b1
  else if h = 0x01 then leafS b1
  else if h = 0x02 then leafX b1
  else if h = 0xFF then brl b1 b2
  else br h

/-- The number of bytes of a node's fixed part, told by its header byte (R92, R99). -/
def nodeFixedLen (h : Byte) : Nat :=
  if h.toNat ≤ 2 then 2 else if h = 0xFF then 3 else 1

/-- The node whose fixed part begins `h, b1, b2`; bytes beyond the fixed part do not matter. -/
def decodeNode (h b1 b2 : Byte) : Instr :=
  caseNode h b1 b2 .leafB .leafS .leafX .br .brl

/-- The number of bytes of a VLI, told by its first byte (R91). -/
def vliFixedLen (b0 : Byte) : Nat := if b0 = 0xFF then 3 else 1

/-- The VLI form whose bytes begin `b0, b1, b2` (R91). -/
def decodeVli (b0 b1 b2 : Byte) : Instr :=
  if b0 = 0xFF then .vliLong b1 b2 else .vliShort b0

/-- Reads one instruction of a layer from the front of `bs` and returns it with the bytes left. -/
def decode (l : Layer) (bs : List Byte) : Except DecodeError (Instr × List Byte) :=
  match bs with
  | [] => .error .truncated
  | h :: rest =>
    match l with
    | .command =>
      match decodeCommand h with
      | some i => .ok (i, rest)
      | none => .error (.illegalOpcode h)
    | .node =>
      if rest.length + 1 < nodeFixedLen h then .error .truncated
      else .ok (decodeNode h (rest.getD 0 0) (rest.getD 1 0), rest.drop (nodeFixedLen h - 1))
    | .vli =>
      if rest.length + 1 < vliFixedLen h then .error .truncated
      else .ok (decodeVli h (rest.getD 0 0) (rest.getD 1 0), rest.drop (vliFixedLen h - 1))

/-- The layer an instruction belongs to (the table's "space"). -/
def Instr.layer : Instr → Layer
  | .nop | .clr | .rst | .bwInit | .bwPut | .bwFlush | .brSeek | .brRead | .vliEnc | .vliDec
  | .hufBuild | .hufBits | .sfxFind | .serSize | .serBuild | .estSize | .encSym | .encBlock
  | .decSym | .decBlock => .command
  | .leafB _ | .leafS _ | .leafX _ | .br _ | .brl _ _ => .node
  | .vliShort _ | .vliLong _ _ => .vli

/-- The bytes of an instruction, first byte at the lowest address: the opcode of R110, the fixed part
of R93 to R96, the form of R91. -/
def encode : Instr → List Byte
  | .nop => [0x00]
  | .clr => [0x01]
  | .rst => [0x02]
  | .bwInit => [0x10]
  | .bwPut => [0x11]
  | .bwFlush => [0x12]
  | .brSeek => [0x13]
  | .brRead => [0x14]
  | .vliEnc => [0x20]
  | .vliDec => [0x21]
  | .hufBuild => [0x30]
  | .hufBits => [0x31]
  | .sfxFind => [0x40]
  | .serSize => [0x41]
  | .serBuild => [0x42]
  | .estSize => [0x43]
  | .encSym => [0x50]
  | .encBlock => [0x51]
  | .decSym => [0x60]
  | .decBlock => [0x61]
  | .leafB data => [0x00, data]
  | .leafS n => [0x01, n]
  | .leafX n => [0x02, n]
  | .br h => [h]
  | .brl lo hi => [0xFF, lo, hi]
  | .vliShort b0 => [b0]
  | .vliLong lo hi => [0xFF, lo, hi]

/-- The `k` lowest bytes of `w`, the least significant first. -/
def wordBytes : Nat → Nat → List Byte
  | 0, _ => []
  | k + 1, w => BitVec.ofNat 8 w :: wordBytes k (w / 256)

/-- Whether a table word of `nbits` bits is read as a command: it is one byte and an opcode of R110.
Every other word is read as a node. A word of the VLI layer has the bytes of a command or of a node,
and is read as that (log entry 5). -/
def tableWordIsCommand (nbits w : Nat) : Bool :=
  decide (nbits ≤ 8) && (decodeCommand (BitVec.ofNat 8 w)).isSome

/-- The bytes of a table word: `nbits` bits of `w`, then zeros, four bytes in all (the longest fixed
part with its offset field is four bytes). -/
def tableWordBytes (nbits w : Nat) : List Byte := wordBytes 4 (w % 2 ^ nbits)

/-- The instruction this decoder reads from a table word (the host's probe). -/
def decodeTableWord (nbits w : Nat) : Option Instr :=
  let l := if tableWordIsCommand nbits w then Layer.command else Layer.node
  match decode l (tableWordBytes nbits w) with
  | .ok (i, _) => some i
  | .error _ => none

end Sys2Proof
end

