-- ==== Sys2Proof/Machine/Varint.lean ====
section
/-! DEFINITION. The variable-length integer codec: VLI_ENC, VLI_DEC and the two forms they write and
read, VLI.SHORT and VLI.LONG (30_encoding R91, 41_varint R150 to R153). -/

namespace Sys2Proof.Machine

/-- `vli_size(v)` (R150). -/
def vliSize (v : Nat) : Except Cause Nat :=
  if 65535 < v then .error (.formatLimit (v % 2 ^ 32)) else .ok (if v ≤ 254 then 1 else 3)

/-- `vli_bytes(v)` (R150), low byte of the value first (20_memory R62). -/
def vliBytes (v : Nat) : Except Cause (List Byte) :=
  if 65535 < v then .error (.formatLimit (v % 2 ^ 32))
  else .ok (if v ≤ 254 then [BitVec.ofNat 8 v] else [0xFF, BitVec.ofNat 8 v, BitVec.ofNat 8 (v / 256)])

/-- A 16-bit value from its low and high byte (R62). -/
def leWord (lo hi : Byte) : Nat := lo.toNat + 256 * hi.toNat

/-- `vli_read(a)` (R153): the value and the length. -/
def vliRead (a : Nat) (s : State) : Res (Nat × Nat) :=
  (pkRead a s).bind fun b0 s =>
    if b0 = 0xFF then
      (pkRead (a + 1) s).bind fun lo s => (pkRead (a + 2) s).bind fun hi s => .ok (leWord lo hi, 3) s
    else .ok (b0.toNat, 1) s

/-- What VLI_DEC does with a form of value `v` and length `n` (R153): RES0, RES1. -/
def vliResult (v n : Nat) (s : State) : State :=
  { s with res0 := BitVec.ofNat 32 v, res1 := BitVec.ofNat 32 n }

/-- VLI_ENC (R152). -/
def execVliEnc (s : State) : Host.Outcome State Fault Refusal :=
  command false spoilVliEnc
    (fun s =>
      if s.aligned then
        (Res.ofExcept (vliBytes s.arg0.toNat) s).bind fun bs s =>
          (appendAll bs s).bind fun _ t => .ok () { t with res0 := BitVec.ofNat 32 bs.length }
      else .raise (.operand s.wcnt.toNat) s) s

/-- VLI_DEC (R153). -/
def execVliDec (s : State) : Host.Outcome State Fault Refusal :=
  command false spoilTwoResults
    (fun s => (vliRead s.arg0.toNat s).bind fun r t => .ok () (vliResult r.1 r.2 t)) s

/-- VLI.SHORT as VLI_DEC reads it (R91, R153): the value is the byte, the length 1. -/
def execVliShort (b0 : Byte) (s : State) : Host.Outcome State Fault Refusal :=
  .next { vliResult b0.toNat 1 s with walk := Walk.none }

/-- VLI.LONG as VLI_DEC reads it (R91, R153): the value is lo + 256 hi, the length 3. -/
def execVliLong (lo hi : Byte) (s : State) : Host.Outcome State Fault Refusal :=
  .next { vliResult (leWord lo hi) 3 s with walk := Walk.none }

end Sys2Proof.Machine
end

