-- ==== Sys2Proof/Machine/Walk.lean ====
section
/-! DEFINITION. The decode walk and its five node formats (44_decode R210 to R217): each node's meaning
on the walk that `State.walk` holds, the fetch of a node, and the walk of one symbol. -/

namespace Sys2Proof.Machine

/-! ### The node rules -/

/-- A branch in the emission phase is the one format check: MalformedStream(p) (R216). In the descent it
goes to `left` or `right` by the next stream bit, and stays in the descent (R211, R212). -/
def branch (left right : Nat) (s : State) : Res Unit :=
  if s.walk.phase = .emission then .raise (.malformedStream s.walk.pos) s
  else
    let r := bitRead s
    .ok () { r.2 with walk := { s.walk with phase := .descent, pos := if r.1 then right else left } }

/-- BR at `p` (R211): left child at p + 1, right child at p + h. -/
def nodeBr (h : Byte) (s : State) : Res Unit :=
  branch (s.walk.pos + 1) (s.walk.pos + h.toNat) s

/-- BRL at `p` (R212): left child at p + 3, right child at p + 3 + V - 1 = p + 2 + V (30_encoding R98). -/
def nodeBrl (lo hi : Byte) (s : State) : Res Unit :=
  branch (s.walk.pos + 3) (s.walk.pos + 2 + leWord lo hi) s

/-- Bytes `a .. a + n - 1` of PK, read and emitted one at a time in ascending order (R214). -/
def emitBytes : Nat → Nat → State → Res Unit
  | _, 0, s => .ok () s
  | a, n + 1, s => (pkRead a s).bind fun v s => (rawEmit v s).bind fun _ s => emitBytes (a + 1) n s

/-- TP <- p (10_state R34). -/
def setTp (s : State) : State := { s with tp := BitVec.ofNat 32 s.walk.pos }

/-- The symbol ends: the walk is over. -/
def endSymbol (s : State) : State := { s with walk := { s.walk with phase := .idle } }

/-- LEAF.B at `p` (R213). -/
def nodeLeafB (data : Byte) (s : State) : Res Unit :=
  (rawEmit data (setTp s)).bind fun _ s => .ok () (endSymbol s)

/-- LEAF.S at `p` (R214). -/
def nodeLeafS (n : Byte) (s : State) : Res Unit :=
  (emitBytes (s.walk.pos + 2) n.toNat (setTp s)).bind fun _ s => .ok () (endSymbol s)

/-- LEAF.X at `p` (R215): the partial bytes, then the jump to TBASE + off, in the emission phase. -/
def nodeLeafX (n : Byte) (s : State) : Res Unit :=
  (emitBytes (s.walk.pos + 2) n.toNat (setTp s)).bind fun _ s =>
  (pkRead (s.walk.pos + 2 + n.toNat) s).bind fun lo s =>
  (pkRead (s.walk.pos + 3 + n.toNat) s).bind fun hi s =>
    .ok () { s with walk := { s.walk with phase := .emission, pos := s.tbase.toNat + leWord lo hi } }

/-! ### Fetching a node -/

/-- The bytes `a .. a + n - 1` of PK. -/
def pkReadList : Nat → Nat → State → Res (List Byte)
  | _, 0, s => .ok [] s
  | a, n + 1, s => (pkRead a s).bind fun v s => (pkReadList (a + 1) n s).bind fun vs s => .ok (v :: vs) s

/-- Reads the header byte at the walk's position, checks it in the emission phase (R216), reads the rest
of the node's fixed part, and goes on with the three bytes; bytes beyond the fixed part are given as 0. -/
def withNode {α : Type} (k : Byte → Byte → Byte → State → Res α) (s : State) : Res α :=
  (pkRead s.walk.pos s).bind fun h s =>
    if s.walk.phase = .emission ∧ 2 < h.toNat then .raise (.malformedStream s.walk.pos) s
    else
      (pkReadList (s.walk.pos + 1) (nodeFixedLen h - 1) s).bind fun bs s =>
        k h (bs.getD 0 0) (bs.getD 1 0) s

/-- The node at the walk's position, decoded. -/
def fetchNode (s : State) : Res Instr := withNode (fun h b1 b2 s => .ok (decodeNode h b1 b2) s) s

/-- One node of the walk: fetched, decoded and executed (R217). -/
def nodeStep (s : State) : Res Unit :=
  withNode (fun h b1 b2 s => caseNode h b1 b2 nodeLeafB nodeLeafS nodeLeafX nodeBr nodeBrl s) s

/-! ### The walk of one symbol -/

/-- At most `k` nodes, until the symbol ends. -/
def runWalk : Nat → State → Res Unit
  | 0, _ => .stop .walkNeverEnds
  | k + 1, s => (nodeStep s).bind fun _ t => if t.walk.phase = .idle then .ok () t else runWalk k t

/-- A number of nodes that no ending walk exceeds. The descent's position rises with every node and stays
below PK_LEN. In the emission every entry but the first starts at one of 65536 addresses and the walk's
course there depends on the address alone, so between two emitted bytes (at most DREM of them) an ending
walk passes at most 65537 entries. A walk that is cut off by this bound goes round for ever (93 U3). -/
def walkBound (s : State) : Nat := s.pkLen.toNat + 65538 * (s.drem.toNat + 1) + 1

/-- The start of `dec_symbol(mode)`: the descent from the root (R217). -/
def startWalk (verify : Bool) (s : State) : State :=
  { s with walk := ⟨.descent, s.tbase.toNat, verify, 0⟩ }

/-- `dec_symbol(mode)` (R217): the bytes emitted. -/
def decSymbol (verify : Bool) (s : State) : Res Nat :=
  (runWalk (walkBound s) (startWalk verify s)).bind fun _ t => .ok t.walk.count t

/-! ### One node as an instruction -/

/-- A node executed by itself on the walk of the state: a fault ends the walk as it ends the decode command
that the walk is the body of. -/
def nodeOutcome (f : State → Res Unit) (s : State) : Host.Outcome State Fault Refusal :=
  match f s with
  | .ok _ t => .next t
  | .raise c t => .next (takeFault c (spoilDecode s.walk.verify s.drem.toNat s t))
  | .stop f => .fault f

/-- LEAF.B (R93, R213). -/
def execLeafB (data : Byte) (s : State) : Host.Outcome State Fault Refusal :=
  nodeOutcome (nodeLeafB data) s

/-- LEAF.S (R94, R214). -/
def execLeafS (n : Byte) (s : State) : Host.Outcome State Fault Refusal :=
  nodeOutcome (nodeLeafS n) s

/-- LEAF.X (R96, R97, R215). -/
def execLeafX (n : Byte) (s : State) : Host.Outcome State Fault Refusal :=
  nodeOutcome (nodeLeafX n) s

/-- BR (R95, R211). -/
def execBr (h : Byte) (s : State) : Host.Outcome State Fault Refusal :=
  nodeOutcome (nodeBr h) s

/-- BRL (R95, R212). -/
def execBrl (lo hi : Byte) (s : State) : Host.Outcome State Fault Refusal :=
  nodeOutcome (nodeBrl lo hi) s

end Sys2Proof.Machine
end

