-- ==== Sys2Proof/Machine/DecodeBlock.lean ====
section
/-! DEFINITION. The decode commands: DEC_SYM, DEC_BLOCK (44_decode R220 to R223). -/

namespace Sys2Proof.Machine

/-- The walk is over and leaves nothing behind but TP (10_state R51). -/
def endWalk (s : State) : State := { s with walk := Walk.none }

/-- The precondition of both commands: DPTR + `n` stays within 32 bits (R220). -/
def checkLength (n : Nat) (s : State) : Res Unit :=
  if 2 ^ 32 - 1 < s.dptr.toNat + n then .raise (.operand n) s else .ok () s

/-- DEC_SYM (R221). -/
def execDecSym (s : State) : Host.Outcome State Fault Refusal :=
  command false (spoilDecode s.arg0Bit s.drem.toNat)
    (fun s => (checkLength s.drem.toNat s).bind fun _ s =>
      (decSymbol s.arg0Bit s).bind fun n t => .ok () { endWalk t with res0 := BitVec.ofNat 32 n }) s

/-- The loop of DEC_BLOCK over at most `k - 1` symbols; the bytes emitted. -/
def decBlockLoop (verify : Bool) : Nat → Nat → State → Res Nat
  | 0, _, _ => .stop .walkNeverEnds
  | k + 1, total, s =>
    if s.drem = 0 then .ok total s
    else (decSymbol verify s).bind fun n t => decBlockLoop verify k (total + n) t

/-- A number of rounds that no ending block exceeds: every symbol emits a byte, or reads a stream bit that
moves the reader; one that does neither leaves the loop as it found it and repeats for ever (93 U3). -/
def blockBound (s : State) : Nat := s.drem.toNat + 8 * s.pkLen.toNat + 1

/-- DEC_BLOCK (R222). -/
def execDecBlock (s : State) : Host.Outcome State Fault Refusal :=
  command false (spoilDecode s.arg1Bit s.arg0.toNat)
    (fun s => (checkLength s.arg0.toNat s).bind fun _ s =>
      let s := { s with drem := s.arg0 }
      (decBlockLoop s.arg1Bit (blockBound s) 0 s).bind fun n t =>
        .ok () { endWalk t with res0 := BitVec.ofNat 32 n }) s

end Sys2Proof.Machine
end

