-- ==== Sys2Proof/Machine/Serializer.lean ====
section
/-! DEFINITION. The build side of the dictionary tree serializer: SFX_FIND, SER_SIZE, SER_BUILD, EST_SIZE
(43_serializer R180 to R193). -/

namespace Sys2Proof.Machine

/-! ### Suffix selection -/

/-- One candidate `t` of `best_suffix(s)` against the best so far (R181). -/
def suffixStep (st : State) (s : Nat) (best : Word × Nat) (t : Nat) : Word × Nat :=
  if t = s then best
  else if st.freqOf t = 0 then best
  else if st.symLen s ≤ st.symLen t then best
  else if st.symLen t < st.suffixMin then best
  else if st.symBytes t ≠ (st.symBytes s).drop (st.symLen s - st.symLen t) then best
  else if best.2 < st.symLen t then (BitVec.ofNat 32 t, st.symLen t)
  else best

/-- `best_suffix(s)` (R181): the longest proper suffix among the visited symbols, the lowest id among
equals, with its length; (NONE, 0) when there is none. -/
def bestSuffix (st : State) (s : Nat) : Word × Nat :=
  (List.range st.nSym.toNat).foldl (suffixStep st s) (noneWord, 0)

/-- SFX[s] for every visited symbol, ascending (R183). -/
def writeSfx (s : State) : State :=
  { s with sfx := s.visitedIds.foldl (fun m id => m.write id (bestSuffix s id).1) s.sfx }

/-- `sfx_all()` (R183). N_SYM above 65536 raises (10_state R31). -/
def sfxAll (s : State) : Res Unit :=
  if 65536 < s.nSym.toNat then .raise (.operand s.nSym.toNat) s
  else
    match s.visitedIds.find? (fun id => decide (s.symLen id = 0)) with
    | some id => .raise (.operand id) s
    | none => .ok () (writeSfx s)

/-- SFX_FIND (R182). -/
def execSfxFind (s : State) : Host.Outcome State Fault Refusal :=
  command false spoilTwoResults
    (fun s =>
      if s.vHuf then
        if 65536 < s.nSym.toNat then .raise (.operand s.nSym.toNat) s
        else if s.nSym.toNat ≤ s.arg0.toNat ∨ s.symLen s.arg0.toNat = 0 then
          .raise (.operand s.arg0.toNat) s
        else
          .ok () { s with
            res0 := (bestSuffix s s.arg0.toNat).1
            res1 := BitVec.ofNat 32 (bestSuffix s s.arg0.toNat).2 }
      else .raise (.stateFault 0x40) s) s

/-! ### The size estimator -/

/-- `leaf_size(s)` (R184). -/
def leafSize (s : State) (id : Nat) : Nat :=
  if s.symLen id = 1 then 2
  else if s.sfxOf id = noneWord then 2 + s.symLen id
  else 4 + s.symLen id - s.symLen (s.sfxOf id).toNat

/-- `size(n)` (R185): the left subtree is the smaller one (R187), and its size is the skip distance. -/
def treeSize (s : State) : HTree → Except Cause Nat
  | .leaf id _ => .ok (leafSize s id)
  | .node a b =>
    match treeSize s a with
    | .error c => .error c
    | .ok sa =>
      match treeSize s b with
      | .error c => .error c
      | .ok sb =>
        match vliSize (min sa sb + 1) with
        | .error c => .error c
        | .ok h => .ok (h + sa + sb)

/-- The size of a whole table; an empty one has none (R186). -/
def tableSize (s : State) : Option HTree → Except Cause Nat
  | none => .ok 0
  | some t => treeSize s t

/-- The ids whose SFX `sfx_all` can write: the visited symbols (R183). With V_HUF = 0 FREQ has no meaning (10_state
R44), and any id of the alphabet can be one. -/
def State.suffixReach (s : State) : List (Nat × Nat) :=
  if s.vHuf then singleCells s.visitedIds else [(0, s.idBound)]

/-- SER_SIZE (R186). -/
def execSerSize (s : State) : Host.Outcome State Fault Refusal :=
  command false (spoilSerSize s.suffixReach)
    (fun s =>
      if s.vHuf then
        (sfxAll s).bind fun _ s => withTree (fun t s =>
          (Res.ofExcept (tableSize s t) s).bind fun n s => .ok () { s with res0 := BitVec.ofNat 32 n }) s
      else .raise (.stateFault 0x41) s) s

/-! ### The builder -/

/-- Records a fixup: FIX[NFIX] and NFIX (R189). -/
def addFixup (target : Nat) (s : State) : State :=
  { s with fix := s.fix.write s.nfix.toNat ⟨s.wptr.toNat, target⟩, nfix := s.nfix + 1 }

/-- The entry of a visited symbol: LEAF.B, LEAF.S or LEAF.X with its placeholder (R189, R93, R94, R96). -/
def emitEntry (id : Nat) (s : State) : Res Unit :=
  if s.symLen id = 1 then appendAll [0x00, s.symByte id 0] s
  else if s.sfxOf id = noneWord then
    appendAll ([0x01, BitVec.ofNat 8 (s.symLen id)] ++ s.symBytes id) s
  else
    let p := s.symLen id - s.symLen (s.sfxOf id).toNat
    (appendAll ([0x02, BitVec.ofNat 8 p] ++ (s.symBytes id).take p) s).bind fun _ t =>
      appendAll [0x00, 0x00] (addFixup (s.sfxOf id).toNat t)

/-- A leaf's SOFF and CODE are recorded, then its entry is emitted (R189). -/
def emitLeaf (id : Nat) (code : List Bool) (s : State) : Res Unit :=
  emitEntry id { s with
    soff := s.soff.write id (BitVec.ofNat 32 (s.wptr.toNat - s.tbase.toNat))
    code := s.code.write id code }

/-- `emit(n, code)` (R189), pre-order: the skip field, the left subtree with bit 0, the right one with
bit 1 (R188). The second child goes left only if its subtree is strictly smaller (R187). -/
def emitTree : HTree → List Bool → State → Res Unit
  | .leaf id _, code, s => emitLeaf id code s
  | .node a b, code, s =>
    (Res.ofExcept (treeSize s a) s).bind fun sa s =>
    (Res.ofExcept (treeSize s b) s).bind fun sb s =>
    (Res.ofExcept (vliBytes (min sa sb + 1)) s).bind fun skip s =>
    (appendAll skip s).bind fun _ s =>
      if sb < sa then
        (emitTree b (code ++ [false]) s).bind fun _ s => emitTree a (code ++ [true]) s
      else
        (emitTree a (code ++ [false]) s).bind fun _ s => emitTree b (code ++ [true]) s

/-- Pass 1 over a whole table. -/
def emitTable : Option HTree → State → Res Unit
  | none, s => .ok () s
  | some t, s => emitTree t [] s

/-- Pass 2 over the fixups `k .. k + n - 1` (R191), low byte first (20_memory R62). -/
def resolveFixups : Nat → Nat → State → Res Unit
  | _, 0, s => .ok () s
  | k, n + 1, s =>
    match s.fix.find k with
    | none => .stop .treeBroken
    | some f =>
      let off := (s.soffOf f.target).toNat
      if 65535 < off then .raise (.formatLimit off) s
      else
        resolveFixups (k + 1) n
          (pkWrite (f.pos + 1) (BitVec.ofNat 8 (off / 256)) (pkWrite f.pos (BitVec.ofNat 8 off) s))

/-- SER_BUILD after its estimate (R190): the writer is placed at TBASE, pass 1, the check of R192, pass 2,
the results. -/
def buildTable (t : Option HTree) (est : Nat) (s : State) : Res Unit :=
  (emitTable t { s with wptr := s.tbase, wacc := 0, wcnt := 0, nfix := 0 }).bind fun _ s =>
    if s.wptr.toNat - s.tbase.toNat ≠ est then
      .raise (.verifyFail (s.wptr.toNat - s.tbase.toNat)) s
    else
      (resolveFixups 0 s.nfix.toNat s).bind fun _ s =>
        .ok () { s with tlen := BitVec.ofNat 32 est, res0 := BitVec.ofNat 32 est, vSer := true }

/-- The bytes of a node over subtrees of `sa` and `sb` bytes: its skip field and theirs (R185). -/
def nodeExtent (sa sb : Nat) : Nat := (if min sa sb < 254 then 1 else 3) + sa + sb

/-- The bytes of a table, whether or not its skip values fit 16 bits (R185). -/
def treeExtent (s : State) : HTree → Nat
  | .leaf id _ => leafSize s id
  | .node a b => nodeExtent (treeExtent s a) (treeExtent s b)

/-- The ids that a table can have leaves for: the visited symbols (R189). With V_HUF = 0 NODE has no meaning
(10_state R45), and any id can be one. -/
def State.leafReach (s : State) : List (Nat × Nat) :=
  if s.vHuf then singleCells s.visitedIds else [(0, 65536)]

/-- The bytes that a table can take: those of the present tree's, with the suffixes that `sfx_all` finds (R190).
With V_HUF = 0 it can be any tree's, which is below 2^25 bytes (10_state R57). -/
def State.tableBytes (s : State) : Nat :=
  if s.vHuf then
    match s.tree with
    | some (some tr) => treeExtent (writeSfx s) tr
    | _ => 0
  else 2 ^ 25

/-- The fixups that a table can have: one for each of its LEAF.X entries (R189); with V_HUF = 0, one for any
id. -/
def State.fixupReach (s : State) : Nat :=
  if s.vHuf then
    (s.visitedIds.filter (fun id => decide (s.symLen id ≠ 1 ∧ (bestSuffix s id).1 ≠ noneWord))).length
  else 65536

/-- SER_BUILD (R190). -/
def execSerBuild (s : State) : Host.Outcome State Fault Refusal :=
  command false (spoilSerBuild s.suffixReach s.leafReach s.tableBytes s.fixupReach)
    (fun s =>
      if s.vHuf then
        (sfxAll (clearTable s)).bind fun _ s => withTree (fun t s =>
          (Res.ofExcept (tableSize s t) s).bind fun est s => buildTable t est s) s
      else .raise (.stateFault 0x42) s) s

/-! ### The candidate size estimate -/

/-- EST_SIZE (R193): HUF_BUILD's body, tree_bits, the table's size. V_HUF is set on completion (10_state
R23; log entry 9). -/
def execEstSize (s : State) : Host.Outcome State Fault Refusal :=
  command false (spoilEstSize s.countedIds)
    (fun s =>
      (buildTree s).bind fun _ s => (sfxAll s).bind fun _ s => withTree (fun t s =>
        (Res.ofExcept (tableSize s t) s).bind fun n s =>
          .ok () { s with
            res0 := lowWord (treeBits t)
            res1 := highWord (treeBits t)
            res2 := BitVec.ofNat 32 n
            vHuf := true }) s) s

end Sys2Proof.Machine
end

