-- ==== Sys2Proof/Machine/Dispatch.lean ====
section
/-! DEFINITION. The dispatch of an instruction to its meaning. -/

namespace Sys2Proof.Machine

/-- What an instruction does: a command as started by a CMD write, a node on the walk in progress, a VLI
form as VLI_DEC reads it. -/
def exec (i : Instr) (s : State) : Host.Outcome State Fault Refusal :=
  match i with
  | .nop => Sys2Proof.Machine.execNop s
  | .clr => Sys2Proof.Machine.execClr s
  | .rst => Sys2Proof.Machine.execRst s
  | .bwInit => Sys2Proof.Machine.execBwInit s
  | .bwPut => Sys2Proof.Machine.execBwPut s
  | .bwFlush => Sys2Proof.Machine.execBwFlush s
  | .brSeek => Sys2Proof.Machine.execBrSeek s
  | .brRead => Sys2Proof.Machine.execBrRead s
  | .vliEnc => Sys2Proof.Machine.execVliEnc s
  | .vliDec => Sys2Proof.Machine.execVliDec s
  | .hufBuild => Sys2Proof.Machine.execHufBuild s
  | .hufBits => Sys2Proof.Machine.execHufBits s
  | .sfxFind => Sys2Proof.Machine.execSfxFind s
  | .serSize => Sys2Proof.Machine.execSerSize s
  | .serBuild => Sys2Proof.Machine.execSerBuild s
  | .estSize => Sys2Proof.Machine.execEstSize s
  | .encSym => Sys2Proof.Machine.execEncSym s
  | .encBlock => Sys2Proof.Machine.execEncBlock s
  | .decSym => Sys2Proof.Machine.execDecSym s
  | .decBlock => Sys2Proof.Machine.execDecBlock s
  | .leafB data => Sys2Proof.Machine.execLeafB data s
  | .leafS n => Sys2Proof.Machine.execLeafS n s
  | .leafX n => Sys2Proof.Machine.execLeafX n s
  | .br h => Sys2Proof.Machine.execBr h s
  | .brl lo hi => Sys2Proof.Machine.execBrl lo hi s
  | .vliShort b0 => Sys2Proof.Machine.execVliShort b0 s
  | .vliLong lo hi => Sys2Proof.Machine.execVliLong lo hi s

end Sys2Proof.Machine
end

