-- ==== Sys2Proof/Machine/Registers.lean ====
section
/-! DEFINITION. The register file as the host sees it: numbers, access, GET and SET (10_state R21, R23). -/

namespace Sys2Proof.Machine

/-- The register of a number; none for a number R21 does not list. -/
def regOf (no : Byte) : Option Reg :=
  match no.toNat with
  | 0x00 => some .cmd
  | 0x01 => some .status
  | 0x02 => some .einfo
  | 0x03 => some .arg0
  | 0x04 => some .arg1
  | 0x06 => some .res0
  | 0x07 => some .res1
  | 0x08 => some .res2
  | 0x10 => some .cfg
  | 0x11 => some .tbase
  | 0x12 => some .pkCap
  | 0x13 => some .pkLen
  | 0x14 => some .rawCap
  | 0x15 => some .nSym
  | 0x16 => some .ssLen
  | 0x17 => some .dptr
  | 0x18 => some .drem
  | 0x19 => some .wlen
  | 0x1A => some .rlen
  | 0x20 => some .wptr
  | 0x21 => some .wacc
  | 0x22 => some .wcnt
  | 0x23 => some .rpos
  | 0x24 => some .rbit
  | 0x25 => some .tp
  | 0x28 => some .root
  | 0x29 => some .nnode
  | 0x2A => some .nleaf
  | 0x2B => some .tlen
  | 0x2C => some .nfix
  | _ => none

/-- What a read of a register returns, narrower registers with zeros above; CMD is write-only and reads
as 0 (R21). -/
def State.readReg (s : State) : Reg → Word
  | .cmd => 0
  | .status => s.status.setWidth 32
  | .einfo => s.einfo
  | .arg0 => s.arg0
  | .arg1 => s.arg1
  | .res0 => s.res0
  | .res1 => s.res1
  | .res2 => s.res2
  | .cfg => s.cfg.setWidth 32
  | .tbase => s.tbase
  | .pkCap => s.pkCap
  | .pkLen => s.pkLen
  | .rawCap => s.rawCap
  | .nSym => s.nSym
  | .ssLen => s.ssLen
  | .dptr => s.dptr
  | .drem => s.drem
  | .wlen => s.wlen
  | .rlen => s.rlen
  | .wptr => s.wptr
  | .wacc => s.wacc.setWidth 32
  | .wcnt => s.wcnt.setWidth 32
  | .rpos => s.rpos
  | .rbit => s.rbit.setWidth 32
  | .tp => s.tp
  | .root => s.root
  | .nnode => s.nnode
  | .nleaf => s.nleaf
  | .tlen => s.tlen
  | .nfix => s.nfix

/-- GET: the register's value, 0 for a number that does not exist (R21). -/
def State.getReg (s : State) (no : Byte) : Word :=
  match regOf no with
  | some r => s.readReg r
  | none => 0

/-- Whether a number is that of an RW register (R21's access column). -/
def isRw (no : Byte) : Bool :=
  match regOf no with
  | some .arg0 | some .arg1 | some .cfg | some .tbase | some .pkCap | some .pkLen | some .rawCap | some .nSym
  | some .ssLen | some .dptr | some .drem | some .wlen | some .rlen => true
  | _ => false

/-- A host write to a register other than CMD (R21): RW registers take the value, reduced to their width
(00_scope R10); writes to R registers are ignored. A write to N_SYM or SS_LEN clears V_HUF and V_SER, one
to CFG clears V_SER (R23). -/
def State.writeReg (s : State) (r : Reg) (v : Word) : State :=
  match r with
  | .arg0 => { s with arg0 := v }
  | .arg1 => { s with arg1 := v }
  | .cfg => clearTable { s with cfg := v.setWidth 8 }
  | .tbase => { s with tbase := v }
  | .pkCap => { s with pkCap := v }
  | .pkLen => { s with pkLen := v }
  | .rawCap => { s with rawCap := v }
  | .nSym => clearTree { s with nSym := v }
  | .ssLen => clearTree { s with ssLen := v }
  | .dptr => { s with dptr := v }
  | .drem => { s with drem := v }
  | .wlen => { s with wlen := v }
  | .rlen => { s with rlen := v }
  | .cmd | .status | .einfo | .res0 | .res1 | .res2 | .wptr | .wacc | .wcnt | .rpos | .rbit | .tp
  | .root | .nnode | .nleaf | .tlen | .nfix => s

end Sys2Proof.Machine
end

