-- ==== Sys2Proof/Machine/Port.lean ====
section
/-! DEFINITION. What one step is made of: an action of the host (10_state R22, R53), the node a walk stands
at, the VLI a VLI_DEC stands at; and where the next instruction is placed. -/

namespace Sys2Proof.Machine

/-- A write of the byte `c` to CMD (R22): the command whose opcode it is, or IllegalCommand (R111). -/
def cmdWrite (c : Byte) (s : State) : Host.Outcome State Fault Refusal :=
  match decodeCommand c with
  | some i => exec i s
  | none => illegalCommand c s

/-- SET of a register by its number; a number that does not exist is ignored (R21). -/
def setReg (no : Byte) (v : Word) (s : State) : State :=
  match regOf no with
  | some r => s.writeReg r v
  | none => s

/-- The value the host's read returns. -/
def returned (v : Word) (s : State) : State := { s with hostRead := v }

/-- A host access to memory or to an RW register, only while BUSY = 0; the spec gives it no move otherwise
(20_memory R80, 93 U9; log entry 15). -/
def whileIdle (f : State → State) (s : State) : Host.Outcome State Fault Refusal :=
  if s.busy then .refused .hostAccessWhileBusy else .next (f s)

/-- A host access to the register of a number: of an RW register as of memory; of any other register, or of a
number that does not exist, at any time (R21, R53). -/
def regAccess (no : Byte) (f : State → State) (s : State) : Host.Outcome State Fault Refusal :=
  if isRw no then whileIdle f s else .next (f s)

/-- One action of the host. -/
def hostAct (a : HostAction) (s : State) : Host.Outcome State Fault Refusal :=
  match a with
  | .set no v =>
    if regOf no = some .cmd then cmdWrite (v.setWidth 8) s else regAccess no (setReg no v) s
  | .get no => regAccess no (fun s => returned (s.getReg no) s) s
  | .writePk a v => whileIdle (fun s => { s with pk := s.pk.write a.toNat v }) s
  | .readPk a => whileIdle (fun s => returned ((s.pkByte a.toNat).setWidth 32) s) s
  | .writeRaw a v => whileIdle (fun s => { s with raw := s.raw.write a.toNat v }) s
  | .readRaw a => whileIdle (fun s => returned ((s.rawByte a.toNat).setWidth 32) s) s
  | .writeSs i t => whileIdle (fun s => { s with ss := s.ss.write i.toNat t }) s
  | .readSs i => whileIdle (fun s => returned ((s.ssBits i.toNat).setWidth 32) s) s
  | .writeStLen id v => whileIdle (fun s => { s with stLen := s.stLen.write id.toNat v }) s
  | .readStLen id => whileIdle (fun s => returned (BitVec.ofNat 32 (s.symLen id.toNat)) s) s
  | .writeStData id k v =>
    whileIdle (fun s => { s with stData := s.stData.write (stDataKey id.toNat k.val) v }) s
  | .readStData id k => whileIdle (fun s => returned ((s.symByte id.toNat k.val).setWidth 32) s) s
  | .reset => .next (externalReset s)

/-- A step between commands: the host's next action; with none pending the machine idles and keeps its
state (60_exceptions R285). -/
def hostStep (s : State) : Host.Outcome State Fault Refusal :=
  match s.script with
  | [] => .next s
  | a :: rest => hostAct a { s with script := rest }

/-- A step of a walk in progress: its node is fetched, decoded and executed (44_decode R217). -/
def walkStep (s : State) : Host.Outcome State Fault Refusal :=
  match fetchNode s with
  | .ok i t => exec i t
  | .raise c t => .next (takeFault c (spoilDecode s.walk.verify s.drem.toNat s t))
  | .stop f => .fault f

/-- The VLI form at the walk's position, decoded (41_varint R153). -/
def fetchVli (s : State) : Res Instr :=
  (pkRead s.walk.pos s).bind fun b0 s =>
    (pkReadList (s.walk.pos + 1) (vliFixedLen b0 - 1) s).bind fun bs s =>
      .ok (decodeVli b0 (bs.getD 0 0) (bs.getD 1 0)) s

/-- A step at a VLI that a VLI_DEC stands at. -/
def vliStep (s : State) : Host.Outcome State Fault Refusal :=
  match fetchVli s with
  | .ok i t => exec i t
  | .raise c t => .next (takeFault c (spoilTwoResults s t))
  | .stop f => .fault f

/-- The machine about to take a write of `c` to CMD. -/
def placeCommand (c : Byte) (s : State) : State :=
  { s with walk := Walk.none, script := .set 0 (c.setWidth 32) :: s.script }

/-- Bytes stored from an address on. -/
def storeBytes : Nat → List Byte → Memory Byte → Memory Byte
  | _, [], m => m
  | a, v :: rest, m => storeBytes (a + 1) rest (m.write a v)

/-- The machine with a walk in its descent phase, in write mode, at a node stored from PK address 0 on and
covered by PK_LEN (log entry 4). -/
def placeNode (bs : List Byte) (s : State) : State :=
  { s with
    walk := ⟨.descent, 0, false, 0⟩
    pk := storeBytes 0 bs s.pk
    pkLen := BitVec.ofNat 32 (max s.pkLen.toNat bs.length) }

end Sys2Proof.Machine
end

