-- ==== Sys2Proof/Machine/Step.lean ====
section
/-! DEFINITION. One step of the machine, and where its next instruction is placed. -/

namespace Sys2Proof.Machine

/-- One step: between commands the host's next action (which runs a whole command, 00_scope R7); at a node
of a walk, that node; at a VLI, that VLI. -/
def step (s : State) : Host.Outcome State Fault Refusal :=
  match s.walk.phase with
  | .idle => hostStep s
  | .descent => walkStep s
  | .emission => walkStep s
  | .vli => vliStep s

/-- The state with a table word placed where the next step fetches it: a command as the host's next CMD
write, a node in PK under a walk (log entry 3: how a program comes to run). -/
def State.withFetchWord (s : State) (nbits w : Nat) : State :=
  if tableWordIsCommand nbits w then placeCommand (BitVec.ofNat 8 w) s
  else placeNode (tableWordBytes nbits w) s

end Sys2Proof.Machine
end

