-- ==== Sys2Proof/Safety.lean ====
section
/-! DEFINITION. What claims about HTBP are said in: a clean completion, the invariants that every step
keeps, the finished table, the runs of the decode walk, the bits a reader sees, what a fault records, the
frames. -/

namespace Sys2Proof.Safety

open Sys2Proof.Machine

/-! ### Completion -/

/-- The next state is reached with no error pending. -/
def CompletesTo (o : Host.Outcome State Fault Refusal) (t : State) : Prop :=
  o = .next t ∧ t.err = 0

/-- The next state is one in which the fault `c` has been taken: its code in ERR, its value in EINFO, BUSY
clear (60_exceptions R260, R271). -/
def FaultsWith (o : Host.Outcome State Fault Refusal) (c : Cause) : Prop :=
  ∃ t, o = .next t ∧ t.err = c.code ∧ t.einfo = BitVec.ofNat 32 c.info ∧ t.busy = false

/-! ### Invariants -/

/-- Every memory and array is in its canonical form. -/
def memoriesCanonical (s : State) : Bool :=
  s.pk.wf && s.raw.wf && s.ss.wf && s.stLen.wf && s.stData.wf && s.freq.wf && s.node.wf && s.sfx.wf
    && s.soff.wf && s.code.wf && s.fix.wf

/-- Every listed address lies below `n`. -/
def cellsBelow {α : Type} (n : Nat) (m : Memory α) : Bool := m.cells.all (fun c => decide (c.1 < n))

/-- The memory spaces list no cell outside their address range (10_state R40 to R43). -/
def memoriesInRange (s : State) : Bool :=
  cellsBelow (2 ^ 32) s.pk && cellsBelow (2 ^ 32) s.raw && cellsBelow (2 ^ 32) s.ss
    && cellsBelow 65536 s.stLen && cellsBelow (255 * 65536) s.stData

/-- Bits WCNT to 7 of WACC are 0 (10_state R32). -/
def partialPadded (s : State) : Bool := decide (s.wacc.toNat < 2 ^ s.wcnt.toNat)

/-- The codes that STATUS.ERR can hold (93 U7, 60_exceptions R260). -/
def errLegal (s : State) : Bool :=
  decide (s.err.toNat ∈ [0, 3, 4, 5, 8, 9, 10, 11])

/-- V_SER is set only with V_HUF, and V_HUF only with an alphabet of at most 65536 symbols (10_state R23,
R31). -/
def flagsOrdered (s : State) : Bool :=
  (!s.vSer || s.vHuf) && (!s.vHuf || decide (s.nSym.toNat ≤ 65536))

/-- The engine is between commands: BUSY clear, no walk in progress (00_scope R7, 10_state R23, R51). -/
def atRest (s : State) : Bool := !s.busy && decide (s.walk = Walk.none)

/-! ### Trees -/

/-- The symbols at the leaves of a tree. -/
def leafSyms : HTree → List Nat
  | .leaf id _ => [id]
  | .node a b => leafSyms a ++ leafSyms b

/-- The symbols at the leaves of a whole tree. -/
def tableSyms : Option HTree → List Nat
  | none => []
  | some t => leafSyms t

/-- While V_HUF = 1, NODE holds under ROOT a tree that has one leaf for each visited symbol (10_state
R23, R45, 42_huffman R164). -/
def treeSound (s : State) : Prop :=
  s.vHuf = true → ∃ tr, s.tree = some tr ∧ (tableSyms tr).Perm s.visitedIds

/-- Every token of SS is a Split or a symbol of the alphabet (20_memory R70). -/
def tokensInAlphabet (s : State) : Bool :=
  s.tokens.all (fun t => match t with | .split => true | .sym id => decide (id < s.nSym.toNat))

/-- Every visited symbol has at least one byte (10_state R43). -/
def visitedHaveBytes (s : State) : Bool := s.visitedIds.all (fun id => decide (s.symLen id ≠ 0))

/-! ### Bytes stored -/

/-- From `s` to `t` the bytes `bs` were written to PK from address `a` on (20_memory R65): those below
PK_CAP are stored, any other sets OVF, every other byte of PK stays, WLEN is the running maximum. -/
def StoresBytes (a : Nat) (bs : List Byte) (s t : State) : Prop :=
  (∀ b, t.pkByte b =
    if a ≤ b ∧ b < a + bs.length ∧ b < s.pkCap.toNat then bs.getD (b - a) 0 else s.pkByte b) ∧
  t.ovf = (s.ovf || decide (bs ≠ [] ∧ s.pkCap.toNat < a + bs.length)) ∧
  t.wlen.toNat = if bs = [] then s.wlen.toNat else max s.wlen.toNat (a + bs.length)

/-- From `s` to `t` the walk emitted the bytes `bs` (20_memory R67). In verify mode RAW, RLEN and OVF
stay; in write mode the bytes below RAW_CAP are stored, any other sets OVF, every other byte of RAW
stays, RLEN is the running maximum. -/
def EmitsBytes (bs : List Byte) (s t : State) : Prop :=
  t.dptr.toNat = s.dptr.toNat + bs.length ∧ t.drem.toNat + bs.length = s.drem.toNat ∧
  t.walk.count = s.walk.count + bs.length ∧ t.walk.verify = s.walk.verify ∧
  if s.walk.verify then t.raw = s.raw ∧ t.rlen = s.rlen ∧ t.ovf = s.ovf
  else
    (∀ b, t.rawByte b =
      if s.dptr.toNat ≤ b ∧ b < s.dptr.toNat + bs.length ∧ b < s.rawCap.toNat then
        bs.getD (b - s.dptr.toNat) 0
      else s.rawByte b) ∧
    t.ovf = (s.ovf || decide (bs ≠ [] ∧ s.rawCap.toNat < s.dptr.toNat + bs.length)) ∧
    t.rlen.toNat = if bs = [] then s.rlen.toNat else max s.rlen.toNat (s.dptr.toNat + bs.length)

/-- The bytes `bs` may be emitted next: the block and DPTR have room for them, and in verify mode they are
the bytes of RAW at DPTR, below RAW_CAP (20_memory R67). -/
def mayEmit (bs : List Byte) (s : State) : Bool :=
  decide (bs.length ≤ s.drem.toNat) && decide (s.dptr.toNat + bs.length < 2 ^ 32) &&
    (!s.walk.verify ||
      (List.range bs.length).all (fun k =>
        decide (s.dptr.toNat + k < s.rawCap.toNat) &&
          decide (s.rawByte (s.dptr.toNat + k) = bs.getD k 0)))

/-- The bytes `a .. a + n - 1` of PK. -/
def pkBytes (a n : Nat) (s : State) : List Byte := (List.range n).map (fun k => s.pkByte (a + k))

/-! ### The serialized table -/

/-- The skip field of a branch node whose left subtree is `v - 1` bytes (30_encoding R95, 41_varint R150). -/
def skipField (v : Nat) : List Byte :=
  if v ≤ 254 then [BitVec.ofNat 8 v] else [0xFF, BitVec.ofNat 8 v, BitVec.ofNat 8 (v / 256)]

/-- Whether the entry of a symbol shares a suffix, a LEAF.X (43_serializer R189). -/
def sharesSuffix (s : State) (id : Nat) : Bool := decide (s.symLen id ≠ 1 ∧ s.sfxOf id ≠ noneWord)

/-- The bytes of its own that a LEAF.X stores (R189). -/
def ownLength (s : State) (id : Nat) : Nat := s.symLen id - s.symLen (s.sfxOf id).toNat

/-- The entry of a symbol in the finished table, LEAF.B, LEAF.S or LEAF.X (30_encoding R93, R94, R96), `off`
being the offset of the entry of the shared suffix. -/
def leafText (s : State) (off : Nat → Nat) (id : Nat) : List Byte :=
  if sharesSuffix s id then
    [0x02, BitVec.ofNat 8 (ownLength s id)] ++ (s.symBytes id).take (ownLength s id) ++
      [BitVec.ofNat 8 (off (s.sfxOf id).toNat), BitVec.ofNat 8 (off (s.sfxOf id).toNat / 256)]
  else if s.symLen id = 1 then [0x00, s.symByte id 0]
  else [0x01, BitVec.ofNat 8 (s.symLen id)] ++ s.symBytes id

/-- A node over its serialized children: the smaller one left, the first one on a tie, after the skip field
(43_serializer R187, R189). -/
def nodeText (a b : List Byte) : List Byte :=
  if b.length < a.length then skipField (b.length + 1) ++ b ++ a else skipField (a.length + 1) ++ a ++ b

/-- The bytes of a finished subtree (R189, R191). -/
def treeText (s : State) (off : Nat → Nat) : HTree → List Byte
  | .leaf id _ => leafText s off id
  | .node a b => nodeText (treeText s off a) (treeText s off b)

/-- The bytes of a whole finished table. -/
def tableText (s : State) (off : Nat → Nat) : Option HTree → List Byte
  | none => []
  | some t => treeText s off t

/-- A leaf entry of the table: its symbol, its offset from TBASE (10_state R47), its code (R188). -/
structure Placement where
  sym : Nat
  offset : Nat
  code : List Bool
  deriving DecidableEq, Repr

/-- The bytes of a subtree, which do not depend on the offsets. -/
def textLength (s : State) (t : HTree) : Nat := (treeText s (fun _ => 0) t).length

/-- The leaf entries of a subtree at offset `p` with code `c`, in the order they are emitted: 0 for the left
child, which follows the skip field, 1 for the right child (R188, R189). -/
def placements (s : State) (p : Nat) (c : List Bool) : HTree → List Placement
  | .leaf id _ => [⟨id, p, c⟩]
  | .node a b =>
    if textLength s b < textLength s a then
      let q := p + (skipField (textLength s b + 1)).length
      placements s q (c ++ [false]) b ++ placements s (q + textLength s b) (c ++ [true]) a
    else
      let q := p + (skipField (textLength s a + 1)).length
      placements s q (c ++ [false]) a ++ placements s (q + textLength s a) (c ++ [true]) b

/-- The leaf entries of a whole table. -/
def tablePlacements (s : State) : Option HTree → List Placement
  | none => []
  | some t => placements s 0 [] t

/-- The fixups of a table, one for each LEAF.X, in the order emitted: the PK address of its offset field and
the symbol it shares (R189, 10_state R49). -/
def tableFixups (s : State) (ps : List Placement) : List Fixup :=
  (ps.filter (fun p => sharesSuffix s p.sym)).map (fun p =>
    ⟨s.tbase.toNat + p.offset + 2 + ownLength s p.sym, (s.sfxOf p.sym).toNat⟩)

/-! ### Runs -/

/-- The walk in state `s` ends in `t` after exactly `k` nodes, none of which faults (44_decode R217). -/
def WalkEndsIn : Nat → State → State → Prop
  | 0, _, _ => False
  | k + 1, s, t =>
    ∃ u, nodeStep s = .ok () u ∧ ((u.walk.phase = .idle ∧ u = t) ∨ (u.walk.phase ≠ .idle ∧ WalkEndsIn k u t))

/-- From `s` on, exactly `k` symbols, each begun with DREM above 0, lead to `t` (44_decode R222). -/
def SymbolsLeadTo (verify : Bool) : Nat → State → State → Prop
  | 0, s, t => s = t
  | k + 1, s, t => s.drem ≠ 0 ∧ ∃ n u, decSymbol verify s = .ok n u ∧ SymbolsLeadTo verify k u t

/-- The results of `n` BitReads (40_bitio R135). -/
def readBits : Nat → State → List Bool
  | 0, _ => []
  | n + 1, s => (bitRead s).1 :: readBits n (bitRead s).2

/-- The code bits of the tokens from index `k` on, at most `n` of them, up to a Split (45_block_encode
R241). -/
def runCode : Nat → Nat → State → List Bool
  | 0, _, _ => []
  | n + 1, k, s =>
    match s.token k with
    | .split => []
    | .sym id => s.codeOf id ++ runCode n (k + 1) s

/-- Reading PK from byte `a` on, with PK_LEN = `len`, gives the bits `bits` and then zeros up to the byte
boundary (40_bitio R138). -/
def ReadsBack (a : Word) (len : Word) (bits : List Bool) (t : State) : Prop :=
  readBits (8 * ((bits.length + 7) / 8)) { t with rpos := a, rbit := 0, pkLen := len } =
    bits ++ List.replicate (8 * ((bits.length + 7) / 8) - bits.length) false

/-- Every token from index `k` on, at most `n` of them, up to a Split, is a visited symbol. -/
def runVisited : Nat → Nat → State → Bool
  | 0, _, _ => true
  | n + 1, k, s =>
    match s.token k with
    | .split => true
    | .sym id => s.visited id && runVisited n (k + 1) s

/-- The number of tokens from index `k` on, at most `n` of them, before a Split. -/
def runLength : Nat → Nat → State → Nat
  | 0, _, _ => 0
  | n + 1, k, s =>
    match s.token k with
    | .split => 0
    | .sym _ => runLength n (k + 1) s + 1

/-! ### Suffix candidates -/

/-- `t` is a candidate for the shared suffix of `id` (43_serializer R181). -/
def IsCandidate (s : State) (id t : Nat) : Prop :=
  t < s.nSym.toNat ∧ t ≠ id ∧ s.freqOf t ≠ 0 ∧ s.symLen t < s.symLen id ∧ s.suffixMin ≤ s.symLen t
    ∧ s.symBytes t = (s.symBytes id).drop (s.symLen id - s.symLen t)

/-! ### What a fault records -/

/-- N_SYM out of range (10_state R31). -/
def badAlphabet (s : State) (x : Nat) : Prop := x = s.nSym.toNat ∧ 65536 < x

/-- The id of a token outside the alphabet (20_memory R70). -/
def foreignToken (s : State) (x : Nat) : Prop := ∃ k, k < s.ssLen.toNat ∧ s.token k = .sym x ∧ s.nSym.toNat ≤ x

/-- The value that a FormatLimit of `i` started in `s` records (60_exceptions R263): the writer's ceiling, the
value that VLI_ENC was given, or a skip value or suffix offset of the table (above 65535, when the table is
below 2^32 bytes). -/
def limitValue (i : Instr) (s : State) (x : Nat) : Prop :=
  match i with
  | .bwPut | .bwFlush | .encSym | .encBlock => x = 0xFFFFFFFF
  | .vliEnc => x = 0xFFFFFFFF ∨ (x = s.arg0.toNat ∧ 65535 < x)
  | .serSize | .serBuild => s.tableBytes < 2 ^ 32 → 65535 < x
  | .estSize => { writeTree (clearTree s) with vHuf := true }.tableBytes < 2 ^ 32 → 65535 < x
  | _ => False

/-- The value that a VerifyFail records (R265): the RAW index, among those the walk may emit to; or the size
that SER_BUILD emitted, other than the estimate. -/
def verifyValue (i : Instr) (s : State) (x : Nat) : Prop :=
  match i with
  | .decSym => s.arg0Bit = true ∧ s.dptr.toNat ≤ x ∧ x < s.dptr.toNat + s.drem.toNat
  | .decBlock => s.arg1Bit = true ∧ s.dptr.toNat ≤ x ∧ x < s.dptr.toNat + s.arg0.toNat
  | .leafB _ | .leafS _ | .leafX _ =>
    s.walk.verify = true ∧
      (s.dptr.toNat + s.drem.toNat < 2 ^ 32 → s.dptr.toNat ≤ x ∧ x < s.dptr.toNat + s.drem.toNat)
  | .serBuild => x ≠ s.tableBytes
  | _ => False

/-- The value that a MalformedStream records (R266): the address of the entry, which a decode command has
read. -/
def malformedValue (i : Instr) (s : State) (x : Nat) : Prop :=
  match i with
  | .decSym | .decBlock => x < s.pkLen.toNat
  | .leafB _ | .leafS _ | .leafX _ | .br _ | .brl _ _ => x = s.walk.pos % 2 ^ 32
  | _ => False

/-- The value that a RangeFault records (R267, 20_memory R64): the first address at or beyond PK_LEN that is
read, from the VLI's first byte on, from the node's third byte on, or, in a decode command, wherever the walk
can stand. -/
def rangeValue (i : Instr) (s : State) (x : Nat) : Prop :=
  match i with
  | .vliDec => x = max s.arg0.toNat s.pkLen.toNat
  | .leafS _ | .leafX _ => x = max (s.walk.pos + 2) s.pkLen.toNat % 2 ^ 32
  | .decSym | .decBlock =>
    ∃ a, s.pkLen.toNat ≤ a ∧ a ≤ max s.pkLen.toNat s.tbase.toNat + 65535 ∧ x = a % 2 ^ 32
  | _ => False

/-- The value that an Operand records (R267): the operand, register or token that the command cannot use. -/
def operandValue (i : Instr) (s : State) (x : Nat) : Prop :=
  match i with
  | .vliEnc => x = s.wcnt.toNat ∧ x ≠ 0
  | .hufBuild => badAlphabet s x ∨ foreignToken s x
  | .estSize => badAlphabet s x ∨ foreignToken s x ∨ (x < s.nSym.toNat ∧ s.symLen x = 0)
  | .sfxFind => badAlphabet s x ∨ (x = s.arg0.toNat ∧ (s.nSym.toNat ≤ x ∨ s.symLen x = 0))
  | .serSize | .serBuild => badAlphabet s x ∨ (s.visited x = true ∧ s.symLen x = 0)
  | .encSym => badAlphabet s x ∨ (x = s.arg0.toNat ∧ s.visited x = false)
  | .encBlock =>
    (x = s.wcnt.toNat ∧ x ≠ 0) ∨ badAlphabet s x ∨
      ∃ k, s.arg0.toNat ≤ k ∧ k < s.ssLen.toNat ∧ s.token k = .sym x ∧ s.visited x = false
  | .decSym => x = s.drem.toNat ∧ 2 ^ 32 - 1 < s.dptr.toNat + x
  | .decBlock => x = s.arg0.toNat ∧ 2 ^ 32 - 1 < s.dptr.toNat + x
  | _ => False

/-- The value that a StateFault records (R268): the opcode of the command (30_encoding R110). -/
def stateValue (i : Instr) (s : State) (x : Nat) : Prop :=
  match i with
  | .hufBits => x = 0x31 ∧ s.vHuf = false
  | .sfxFind => x = 0x40 ∧ s.vHuf = false
  | .serSize => x = 0x41 ∧ s.vHuf = false
  | .serBuild => x = 0x42 ∧ s.vHuf = false
  | .encSym => x = 0x50 ∧ s.vSer = false
  | .encBlock => x = 0x51 ∧ s.vSer = false
  | _ => False

/-- The code in ERR and the value in EINFO that a fault of `i` started in `s` leaves (60_exceptions R260). -/
def Records (i : Instr) (s : State) (err : BitVec 4) (x : Nat) : Prop :=
  (err = 3 ∧ limitValue i s x) ∨ (err = 4 ∧ verifyValue i s x) ∨ (err = 5 ∧ malformedValue i s x) ∨
    (err = 8 ∧ rangeValue i s x) ∨ (err = 9 ∧ operandValue i s x) ∨ (err = 10 ∧ stateValue i s x)

/-! ### Frames -/

/-- What `HUF_BUILD`'s body writes (R161), taken from `t`. -/
def treeFrom (t s : State) : State :=
  { s with freq := t.freq, node := t.node, nleaf := t.nleaf, nnode := t.nnode, root := t.root,
           vHuf := t.vHuf, vSer := t.vSer }

/-- What an append writes (R130, R65), taken from `t`. -/
def appendFrom (t s : State) : State :=
  { s with wptr := t.wptr, wlen := t.wlen, pk := t.pk, ovf := t.ovf }

/-- What the bit writer writes (R131), taken from `t`. -/
def writerFrom (t s : State) : State := { appendFrom t s with wacc := t.wacc, wcnt := t.wcnt }

/-- What emission writes (R67), taken from `t`. -/
def emissionFrom (t s : State) : State :=
  { s with tp := t.tp, dptr := t.dptr, drem := t.drem, rlen := t.rlen, raw := t.raw, ovf := t.ovf,
           walk := t.walk }

/-- `s`, with what the rule of `i` lists as written taken from `t`: an instruction that leads from `s` to
`t` writes nothing else when this is `t`. -/
def onlyWritten (i : Instr) (s t : State) : State :=
  match i with
  | .nop => s
  | .clr => { s with err := t.err, ovf := t.ovf }
  | .rst =>
    { t with pk := s.pk, raw := s.raw, ss := s.ss, stLen := s.stLen, stData := s.stData, freq := s.freq,
             node := s.node, sfx := s.sfx, soff := s.soff, code := s.code, fix := s.fix,
             script := s.script, hostRead := s.hostRead, freeCtr := s.freeCtr, tie := s.tie }
  | .bwInit => { s with wptr := t.wptr, wacc := t.wacc, wcnt := t.wcnt }
  | .bwPut => writerFrom t s
  | .bwFlush => writerFrom t s
  | .brSeek => { s with rpos := t.rpos, rbit := t.rbit }
  | .brRead => { s with rpos := t.rpos, rbit := t.rbit, res0 := t.res0 }
  | .vliEnc => { appendFrom t s with res0 := t.res0 }
  | .vliDec => { s with res0 := t.res0, res1 := t.res1 }
  | .hufBuild => { treeFrom t s with res0 := t.res0, res1 := t.res1 }
  | .hufBits => { s with res0 := t.res0, res1 := t.res1 }
  | .sfxFind => { s with res0 := t.res0, res1 := t.res1 }
  | .serSize => { s with sfx := t.sfx, res0 := t.res0 }
  | .serBuild =>
    { writerFrom t s with sfx := t.sfx, soff := t.soff, code := t.code, fix := t.fix, nfix := t.nfix,
                          tlen := t.tlen, res0 := t.res0, vSer := t.vSer }
  | .estSize => { treeFrom t s with sfx := t.sfx, res0 := t.res0, res1 := t.res1, res2 := t.res2 }
  | .encSym => writerFrom t s
  | .encBlock => { writerFrom t s with res0 := t.res0, res1 := t.res1 }
  | .decSym => { emissionFrom t s with rpos := t.rpos, rbit := t.rbit, res0 := t.res0 }
  | .decBlock => { emissionFrom t s with rpos := t.rpos, rbit := t.rbit, res0 := t.res0 }
  | .leafB _ => emissionFrom t s
  | .leafS _ => emissionFrom t s
  | .leafX _ => emissionFrom t s
  | .br _ => { s with rpos := t.rpos, rbit := t.rbit, walk := t.walk }
  | .brl _ _ => { s with rpos := t.rpos, rbit := t.rbit, walk := t.walk }
  | .vliShort _ => { s with res0 := t.res0, res1 := t.res1, walk := t.walk }
  | .vliLong _ _ => { s with res0 := t.res0, res1 := t.res1, walk := t.walk }

/-- The same for an instruction that ends in a fault (60_exceptions R271, R272): ERR, EINFO and what the
taking of a fault writes, and what the rule lists as written. A node is part of a decode command and
leaves unspecified what that command's rule lists (44_decode R221). -/
def faultWritten (i : Instr) (s t : State) : State :=
  let u := if i.layer = .node then onlyWritten .decSym s t else onlyWritten i s t
  { u with err := t.err, einfo := t.einfo, busy := t.busy, walk := t.walk, freeCtr := t.freeCtr }

end Sys2Proof.Safety
end

