-- ==== Sys2Proof/Certificates/Slice0/Obligations.lean ====
section
/-! DEFINITION. The statements for the provers. -/

open Sys2Proof Sys2Proof.Machine Sys2Proof.Safety

/-! ### Encoding -/

/-- Decoding the encoding of any well-formed instruction gives it back, with whatever bytes follow it left
(30_encoding sections 2, 3, 6). -/
def Obligations.DecodeEncodeRoundTrip : Prop :=
  ∀ (i : Instr) (rest : List Byte), i.wellFormed = true →
    decode i.layer (encode i ++ rest) = .ok (i, rest)

/-- Whatever a layer's decoder reads is a well-formed instruction of that layer, and the bytes it took are
that instruction's encoding: no two words mean the same instruction, no byte is dropped. -/
def Obligations.DecodedBytesAreItsEncoding : Prop :=
  ∀ (l : Layer) (bs rest : List Byte) (i : Instr), decode l bs = .ok (i, rest) →
    i.wellFormed = true ∧ i.layer = l ∧ bs = encode i ++ rest

/-- Words written out from 30_encoding R110 (opcodes), R93 to R96 (nodes) and R91 (VLI forms) decode to
what they stand for. -/
def Obligations.SpecWordsDecode : Prop :=
  decode .command [0x13] = .ok (.brSeek, []) ∧ decode .command [0x42] = .ok (.serBuild, []) ∧
    decode .command [0x7F] = .error (.illegalOpcode 0x7F) ∧
    decode .node [0x00, 0x41] = .ok (.leafB 0x41, []) ∧
    decode .node [0x01, 0x02, 0x61, 0x62] = .ok (.leafS 0x02, [0x61, 0x62]) ∧
    decode .node [0x02, 0x01, 0x78, 0x0E, 0x00] = .ok (.leafX 0x01, [0x78, 0x0E, 0x00]) ∧
    decode .node [0xFE] = .ok (.br 0xFE, []) ∧
    decode .node [0xFF, 0x02, 0x01] = .ok (.brl 0x02 0x01, []) ∧
    decode .vli [0xFE] = .ok (.vliShort 0xFE, []) ∧
    decode .vli [0xFF, 0x34, 0x12] = .ok (.vliLong 0x34 0x12, [])

/-! ### The step -/

/-- A step runs the decoded instruction. Between commands it takes the host's next action, and a CMD write
whose byte is an opcode runs that command (10_state R22); at a node of a walk whose fixed part lies below
PK_LEN and, in the emission phase, has a leaf tag, it runs the node that those bytes decode to; at a VLI
below PK_LEN, the form that its bytes decode to. (Model's choices: that the host's next CMD write stands in
`script`, log entry 3; that a walk's node or a VLI's form is a step by itself, where the spec makes the
command atomic, log entry 4; that CMD takes the low byte of the value written, log entry 18.) -/
def Obligations.StepRunsDecodedInstruction : Prop :=
  (∀ (s : State) (v : Word) (rest : List HostAction) (i : Instr), s.walk.phase = .idle →
    s.script = .set 0 v :: rest → decode .command [v.setWidth 8] = .ok (i, []) →
    step s = exec i { s with script := rest }) ∧
  (∀ (s : State) (i : Instr), s.walk.phase = .descent ∨ s.walk.phase = .emission →
    s.walk.pos + nodeFixedLen (s.pkByte s.walk.pos) ≤ s.pkLen.toNat →
    (s.walk.phase = .emission → (s.pkByte s.walk.pos).toNat ≤ 2) →
    decode .node (pkBytes s.walk.pos (nodeFixedLen (s.pkByte s.walk.pos)) s) = .ok (i, []) →
    step s = exec i s) ∧
  (∀ (s : State) (i : Instr), s.walk.phase = .vli →
    s.walk.pos + vliFixedLen (s.pkByte s.walk.pos) ≤ s.pkLen.toNat →
    decode .vli (pkBytes s.walk.pos (vliFixedLen (s.pkByte s.walk.pos)) s) = .ok (i, []) →
    step s = exec i s)

/-- Fetching a node reads its fixed part byte by byte: the first byte of it at or beyond PK_LEN raises
RangeFault of its address (20_memory R64): the header, the second byte of a leaf entry (44_decode R213 to
R215), the second or third byte of a BRL (R212); in the emission phase a header byte above 2 raises
MalformedStream(p) (R216). (That a node is fetched in a step by itself is the model's choice, log entry 4.) -/
def Obligations.NodeFetchFaults : Prop :=
  ∀ s : State, s.walk.phase = .descent ∨ s.walk.phase = .emission →
    let p := s.walk.pos
    (s.pkLen.toNat ≤ p → FaultsWith (step s) (.rangeFault p)) ∧
    (s.pkLen.toNat = p + 1 → (s.pkByte p).toNat ≤ 2 → FaultsWith (step s) (.rangeFault (p + 1))) ∧
    (s.walk.phase = .descent → s.pkByte p = 0xFF →
      (s.pkLen.toNat = p + 1 → FaultsWith (step s) (.rangeFault (p + 1))) ∧
      (s.pkLen.toNat = p + 2 → FaultsWith (step s) (.rangeFault (p + 2)))) ∧
    (s.walk.phase = .emission → p < s.pkLen.toNat → 2 < (s.pkByte p).toNat →
      FaultsWith (step s) (.malformedStream p))

/-! ### Reset, housekeeping, refusals -/

/-- After reset every register reads 0 but CFG and ROOT, and no memory cell or array entry has a known
value; and the reset event, whatever state it meets, answers a state whose registers read the same, in which
no walk is in progress and no cell or entry has a known value (10_state R54, 70_reset R300). (That the event
comes between two steps, as an action of the host, is the model's choice, log entry 19.) -/
def Obligations.ResetRegistersAndMemories : Prop :=
  (∀ r : Reg, State.reset.readReg r = match r with | .cfg => 0x02 | .root => 0xFFFFFFFF | _ => 0) ∧
  (∀ a : Nat, State.reset.pk.find a = none ∧ State.reset.raw.find a = none ∧
    State.reset.ss.find a = none ∧ State.reset.stLen.find a = none ∧ State.reset.stData.find a = none ∧
    State.reset.freq.find a = none ∧ State.reset.node.find a = none ∧ State.reset.sfx.find a = none ∧
    State.reset.soff.find a = none ∧ State.reset.code.find a = none ∧ State.reset.fix.find a = none) ∧
  ∀ s : State, ∃ t, hostAct .reset s = .next t ∧
    (∀ r : Reg, t.readReg r = match r with | .cfg => 0x02 | .root => 0xFFFFFFFF | _ => 0) ∧
    t.walk = Walk.none ∧
    (∀ a, a < 2 ^ 32 → t.pk.find a = none ∧ t.raw.find a = none ∧ t.ss.find a = none) ∧
    (∀ a, a < 255 * 65536 → t.stData.find a = none) ∧ (∀ a, a < 131071 → t.node.find a = none) ∧
    ∀ a, a < 65536 → t.stLen.find a = none ∧ t.freq.find a = none ∧ t.sfx.find a = none ∧
      t.soff.find a = none ∧ t.code.find a = none ∧ t.fix.find a = none

/-- RST, whether or not an error is pending (46_control R252): every register as after reset, the memories
and arrays as they were. -/
def Obligations.RstResetsRegistersKeepsMemories : Prop :=
  encode .rst = [0x02] ∧ ∀ s : State, s.busy = false → ∃ t, exec .rst s = .next t ∧
    (∀ r : Reg, t.readReg r = State.reset.readReg r) ∧ t.status = 0 ∧
    t.pk = s.pk ∧ t.raw = s.raw ∧ t.ss = s.ss ∧ t.stLen = s.stLen ∧ t.stData = s.stData ∧
    t.freq = s.freq ∧ t.node = s.node ∧ t.sfx = s.sfx ∧ t.soff = s.soff ∧ t.code = s.code ∧ t.fix = s.fix ∧
    (∀ i, i ∈ [Instr.hufBits, .sfxFind, .serSize, .serBuild] → FaultsWith (exec i t) (.stateFault
      (match i with | .hufBits => 0x31 | .sfxFind => 0x40 | .serSize => 0x41 | _ => 0x42)))

/-- NOP has opcode 0x00 and, when a command is accepted, changes nothing; while BUSY or with an error pending
it is refused (46_control R250). -/
def Obligations.NopChangesNothing : Prop :=
  encode .nop = [0x00] ∧ ∀ s : State,
    (s.busy = false → s.err = 0 → exec .nop s = .next s) ∧
    (s.busy = true ∨ s.err ≠ 0 → exec .nop s = .refused .commandRefused)

/-- CLR has opcode 0x01, is accepted whether or not an error is pending, clears ERR and OVF and changes
nothing else (46_control R251). -/
def Obligations.ClrClearsErrAndOvf : Prop :=
  encode .clr = [0x01] ∧
    ∀ s : State, s.busy = false → exec .clr s = .next { s with err := 0, ovf := false }

/-- A CMD write while BUSY, or with an error pending and neither CLR nor RST, is refused, whatever its opcode,
also one that is no command: there is no next state and no fault (60_exceptions R277). -/
def Obligations.CommandsTurnedAway : Prop :=
  ∀ (s : State) (c : Byte),
    s.busy = true ∨ (s.err ≠ 0 ∧ c ≠ 0x01 ∧ c ≠ 0x02) → cmdWrite c s = .refused .commandRefused

/-- An opcode that 30_encoding section 6 does not list raises IllegalCommand(opcode) when a command would be
accepted, and nothing else changes (the walk of a state between commands is none already). -/
def Obligations.IllegalOpcodeRaises : Prop :=
  ∀ (s : State) (c : Byte), s.busy = false → s.err = 0 → s.walk = Walk.none →
    decode .command [c] = .error (.illegalOpcode c) →
    ∃ t, cmdWrite c s = .next t ∧ t.err = 11 ∧ t.einfo = c.setWidth 32 ∧
      t = { s with err := t.err, einfo := t.einfo, freeCtr := t.freeCtr }

/-- A command that reads internal arrays while they are not valid raises StateFault(opcode): HUF_BITS,
SFX_FIND, SER_SIZE, SER_BUILD with V_HUF = 0, ENC_SYM, ENC_BLOCK with V_SER = 0 (60_exceptions R268). -/
def Obligations.InvalidArraysRaiseStateFault : Prop :=
  ∀ s : State, s.accepts false = true →
    (s.vHuf = false → FaultsWith (exec .hufBits s) (.stateFault 0x31) ∧
      FaultsWith (exec .sfxFind s) (.stateFault 0x40) ∧ FaultsWith (exec .serSize s) (.stateFault 0x41) ∧
      FaultsWith (exec .serBuild s) (.stateFault 0x42)) ∧
    (s.vSer = false → FaultsWith (exec .encSym s) (.stateFault 0x50) ∧
      FaultsWith (exec .encBlock s) (.stateFault 0x51))

/-- Whatever instruction ends with an error that was not pending before has taken a fault of 60_exceptions
section 1 that its rule names: BUSY is clear, no walk is left, ERR holds the code, and EINFO the value that
`Records` gives for that code and instruction: the address, value, index, operand or opcode of R260. -/
def Obligations.NewErrorsAreFaultsTaken : Prop :=
  ∀ (i : Instr) (s t : State), exec i s = .next t → t.err ≠ s.err → t.err ≠ 0 →
    t.busy = false ∧ t.walk = Walk.none ∧ Records i s t.err t.einfo.toNat

/-! ### The host's side -/

/-- The register file as the host reaches it (10_state section 2): the numbers, and what each register reads
as; GET answers the register's value, 0 for CMD and for a number that does not exist, and changes nothing else;
R registers and numbers that do not exist ignore a SET. While BUSY this holds too, but a GET or a SET of an RW
register is refused (20_memory R80). SET while not BUSY: CFG takes 8 bits and clears V_SER; N_SYM and SS_LEN
clear V_HUF and V_SER; the other RW registers take the value. (Model's choices: that a narrow register takes
the low bits of the value, log entry 18; that an access without a move is a refusal, log entry 15; where the
host's read stands, log entry 3.) -/
def Obligations.HostRegisterAccess : Prop :=
  (∀ (no : Byte) (r : Reg), regOf no = some r ↔ (no, r) ∈
    [((0x00 : Byte), Reg.cmd), (0x01, .status), (0x02, .einfo), (0x03, .arg0), (0x04, .arg1), (0x06, .res0),
      (0x07, .res1), (0x08, .res2), (0x10, .cfg), (0x11, .tbase), (0x12, .pkCap), (0x13, .pkLen),
      (0x14, .rawCap), (0x15, .nSym), (0x16, .ssLen), (0x17, .dptr), (0x18, .drem), (0x19, .wlen),
      (0x1A, .rlen), (0x20, .wptr), (0x21, .wacc), (0x22, .wcnt), (0x23, .rpos), (0x24, .rbit), (0x25, .tp),
      (0x28, .root), (0x29, .nnode), (0x2A, .nleaf), (0x2B, .tlen), (0x2C, .nfix)]) ∧
  (∀ s : State, (s.readReg .status).toNat =
      s.busy.toNat + 2 * s.ovf.toNat + 4 * s.vHuf.toNat + 8 * s.vSer.toNat + 16 * s.err.toNat ∧
    s.readReg .cmd = 0 ∧
    [Reg.einfo, .arg0, .arg1, .res0, .res1, .res2, .cfg, .tbase, .pkCap, .pkLen, .rawCap, .nSym, .ssLen,
      .dptr, .drem, .wlen, .rlen, .wptr, .wacc, .wcnt, .rpos, .rbit, .tp, .root, .nnode, .nleaf, .tlen,
      .nfix].map (fun r => (s.readReg r).toNat) =
    [s.einfo.toNat, s.arg0.toNat, s.arg1.toNat, s.res0.toNat, s.res1.toNat, s.res2.toNat, s.cfg.toNat,
      s.tbase.toNat, s.pkCap.toNat, s.pkLen.toNat, s.rawCap.toNat, s.nSym.toNat, s.ssLen.toNat,
      s.dptr.toNat, s.drem.toNat, s.wlen.toNat, s.rlen.toNat, s.wptr.toNat, s.wacc.toNat, s.wcnt.toNat,
      s.rpos.toNat, s.rbit.toNat, s.tp.toNat, s.root.toNat, s.nnode.toNat, s.nleaf.toNat, s.tlen.toNat,
      s.nfix.toNat]) ∧
  (∀ (s : State) (no : Byte) (r : Reg) (v : Word), regOf no = some r →
    let writable := [Reg.arg0, .arg1, .cfg, .tbase, .pkCap, .pkLen, .rawCap, .nSym, .ssLen, .dptr, .drem,
      .wlen, .rlen]
    (s.busy = false ∨ r ∉ writable → hostAct (.get no) s = .next { s with hostRead := s.readReg r }) ∧
    (s.busy = true → r ∈ writable → hostAct (.get no) s = .refused .hostAccessWhileBusy ∧
      hostAct (.set no v) s = .refused .hostAccessWhileBusy) ∧
    (r ∉ writable → r ≠ .cmd → hostAct (.set no v) s = .next s)) ∧
  (∀ (s : State) (no : Byte) (v : Word), regOf no = none →
    hostAct (.get no) s = .next { s with hostRead := 0 } ∧ hostAct (.set no v) s = .next s) ∧
  ∀ (s : State) (no : Byte) (v : Word), s.busy = false →
    (regOf no = none → hostAct (.set no v) s = .next s ∧ s.getReg no = 0) ∧
    (regOf no = some .cmd → s.getReg no = 0) ∧
    (∀ r, r ∈ [Reg.status, .einfo, .res0, .res1, .res2, .wptr, .wacc, .wcnt, .rpos, .rbit, .tp, .root,
        .nnode, .nleaf, .tlen, .nfix] → regOf no = some r → hostAct (.set no v) s = .next s) ∧
    (regOf no = some .cfg →
      hostAct (.set no v) s = .next { s with cfg := v.setWidth 8, vSer := false }) ∧
    (regOf no = some .nSym →
      hostAct (.set no v) s = .next { s with nSym := v, vHuf := false, vSer := false }) ∧
    (regOf no = some .ssLen →
      hostAct (.set no v) s = .next { s with ssLen := v, vHuf := false, vSer := false }) ∧
    (∀ r, r ∈ [Reg.arg0, .arg1, .tbase, .pkCap, .pkLen, .rawCap, .dptr, .drem, .wlen, .rlen] →
      regOf no = some r → ∃ t, hostAct (.set no v) s = .next t ∧ t.getReg no = v ∧
        ∀ q, q ≠ r → t.readReg q = s.readReg q)

/-- A byte, token or symbol byte that the host stores between commands is what the engine then reads, and
the other cells of its space read as before (10_state section 3); a host read of a cell answers what the engine
reads there and changes nothing else. (Model's choices: where the host's read stands, log entry 3; that an
access to memory while BUSY is refused, log entry 15.) -/
def Obligations.HostLoadsMemories : Prop :=
  (∀ (s : State), s.busy = false →
    (∀ a v, ∃ t, hostAct (.writePk a v) s = .next t ∧ t.pkByte a.toNat = v ∧
      ∀ b, b ≠ a.toNat → t.pkByte b = s.pkByte b) ∧
    (∀ a v, ∃ t, hostAct (.writeRaw a v) s = .next t ∧ t.rawByte a.toNat = v ∧
      ∀ b, b ≠ a.toNat → t.rawByte b = s.rawByte b) ∧
    (∀ i w, ∃ t, hostAct (.writeSs i w) s = .next t ∧ t.token i.toNat = tokenOf w ∧
      ∀ b, b ≠ i.toNat → t.token b = s.token b) ∧
    (∀ id v, ∃ t, hostAct (.writeStLen id v) s = .next t ∧ t.symLen id.toNat = v.toNat ∧
      ∀ b, b ≠ id.toNat → t.symLen b = s.symLen b) ∧
    (∀ id k v, ∃ t, hostAct (.writeStData id k v) s = .next t ∧ t.symByte id.toNat k.val = v ∧
      ∀ b j, j < 255 → (b, j) ≠ (id.toNat, k.val) → t.symByte b j = s.symByte b j) ∧
    (∀ a, hostAct (.readPk a) s = .next { s with hostRead := (s.pkByte a.toNat).setWidth 32 } ∧
      hostAct (.readRaw a) s = .next { s with hostRead := (s.rawByte a.toNat).setWidth 32 } ∧
      ∃ w : Word, hostAct (.readSs a) s = .next { s with hostRead := w } ∧
        tokenOf (w.setWidth 17) = s.token a.toNat) ∧
    (∀ id, ∃ w : Word, hostAct (.readStLen id) s = .next { s with hostRead := w } ∧
      w.toNat = s.symLen id.toNat) ∧
    ∀ id k, hostAct (.readStData id k) s =
      .next { s with hostRead := (s.symByte id.toNat k.val).setWidth 32 }) ∧
  ∀ (s : State) (x : HostAction), s.busy = true → (∀ no v, x ≠ .set no v) → (∀ no, x ≠ .get no) →
    x ≠ .reset → hostAct x s = .refused .hostAccessWhileBusy

/-- No instruction but RST writes the operands, the configuration, SS, ST or the host's side: "no command
writes them" (10_state section 2), "HTBP only reads SS", "HTBP only reads ST" (section 3). RST keeps SS,
ST and the host's side too. -/
def Obligations.InstructionsKeepHostState : Prop :=
  ∀ (i : Instr) (s t : State), exec i s = .next t →
    (t.ss = s.ss ∧ t.stLen = s.stLen ∧ t.stData = s.stData ∧ t.script = s.script ∧
      t.hostRead = s.hostRead ∧ t.tie = s.tie) ∧
    (i ≠ .rst → t.arg0 = s.arg0 ∧ t.arg1 = s.arg1 ∧ t.cfg = s.cfg ∧ t.tbase = s.tbase ∧
      t.pkCap = s.pkCap ∧ t.pkLen = s.pkLen ∧ t.rawCap = s.rawCap ∧ t.nSym = s.nSym ∧ t.ssLen = s.ssLen)

/-! ### Frames -/

/-- An instruction that completes writes only what its rule lists (`onlyWritten` names it for each): every
other register, flag, array and memory is the one before. -/
def Obligations.CompletedInstructionsFrame : Prop :=
  ∀ (i : Instr) (s t : State), exec i s = .next t → t.err = 0 → t = onlyWritten i s t

/-- After a fault everything the command's rule does not list as written is unchanged (60_exceptions section
3); for a node, what the decode command it is part of lists. Of PK and RAW that is every byte outside those
that the command's bytes can reach: 1 for BW_PUT and BW_FLUSH, 3 for VLI_ENC, those of the codes, of the table,
DREM or ARG0 decoded bytes; in verify mode no byte of RAW. (That R272 is read byte by byte is the model's
reading, log entry 8.) -/
def Obligations.FaultedInstructionsFrame : Prop :=
  ∀ (i : Instr) (s t : State), exec i s = .next t → s.err = 0 → t.err ≠ 0 → t = faultWritten i s t ∧
    (∀ n, (i, n) ∈ [(Instr.bwPut, 1), (.bwFlush, 1), (.vliEnc, 3),
        (.encSym, (s.wcnt.toNat + (s.codeOf s.arg0.toNat).length) / 8), (.encBlock, s.blockBytes)] →
      ∀ a, a < s.wptr.toNat ∨ s.wptr.toNat + n ≤ a → t.pkByte a = s.pkByte a) ∧
    (i = .serBuild → treeSound s →
      ∀ a, a < s.tbase.toNat ∨ s.tbase.toNat + s.tableBytes ≤ a → t.pkByte a = s.pkByte a) ∧
    (∀ n, (i, n) = (.decSym, s.drem.toNat) ∨ (i, n) = (.decBlock, s.arg0.toNat) ∨
        (i.layer = .node ∧ n = s.drem.toNat ∧ s.dptr.toNat + n < 2 ^ 32) →
      ∀ a, a < s.dptr.toNat ∨ s.dptr.toNat + n ≤ a → t.rawByte a = s.rawByte a) ∧
    (i = .decSym ∧ s.arg0Bit = true ∨ i = .decBlock ∧ s.arg1Bit = true ∨
        i.layer = .node ∧ s.walk.verify = true → t.raw = s.raw)

/-- The bytes of PK that a completed instruction stores: those from the writer's address before to its
address after, for the writer's commands; the table, for SER_BUILD; none, for every other instruction. Every
other byte of PK reads as before. -/
def Obligations.CompletedInstructionsKeepOtherPk : Prop :=
  ∀ (i : Instr) (s t : State), exec i s = .next t → t.err = 0 →
    (i ∈ [Instr.bwPut, .bwFlush, .vliEnc, .encSym, .encBlock] →
      ∀ a, a < s.wptr.toNat ∨ t.wptr.toNat ≤ a → t.pkByte a = s.pkByte a) ∧
    (i = .serBuild →
      ∀ a, a < s.tbase.toNat ∨ t.wptr.toNat ≤ a → t.pkByte a = s.pkByte a) ∧
    (i ∉ [Instr.bwPut, .bwFlush, .vliEnc, .encSym, .encBlock, .serBuild] →
      ∀ a, t.pkByte a = s.pkByte a)

/-- The bytes of RAW that a completed decode instruction stores, in write mode, are those from DPTR before
to DPTR after (for a node by itself, when DPTR + DREM is within 32 bits: the decode commands check their
length first); in verify mode, and for every other instruction, none. -/
def Obligations.CompletedInstructionsKeepOtherRaw : Prop :=
  ∀ (i : Instr) (s t : State), exec i s = .next t → t.err = 0 →
    (i = .decSym ∨ i = .decBlock ∨ (i.layer = .node ∧ s.dptr.toNat + s.drem.toNat < 2 ^ 32) →
      ∀ a, a < s.dptr.toNat ∨ t.dptr.toNat ≤ a → t.rawByte a = s.rawByte a) ∧
    (i.layer = .vli ∨ (i.layer = .command ∧ i ≠ .decSym ∧ i ≠ .decBlock) ∨ (∃ h, i = .br h) ∨
        (∃ lo hi, i = .brl lo hi) → t.raw = s.raw) ∧
    (i = .decSym ∧ s.arg0Bit = true ∨ i = .decBlock ∧ s.arg1Bit = true ∨
        i.layer = .node ∧ s.walk.verify = true → t.raw = s.raw)

/-! ### Invariants -/

/-- An idle engine with no host action pending keeps all its state (60_exceptions R285). -/
def Obligations.IdleKeepsState : Prop :=
  ∀ s : State, s.walk.phase = .idle → s.script = [] → step s = .next s

/-- Every step keeps every memory and array in its canonical form, and every memory space within its
address range. -/
def Obligations.StepKeepsMemoriesCanonical : Prop :=
  ∀ s t : State, memoriesCanonical s = true → memoriesInRange s = true → step s = .next t →
    memoriesCanonical t = true ∧ memoriesInRange t = true

/-- Every step, a fault's free values included, keeps bits WCNT to 7 of WACC at 0, keeps ERR one of the
codes that are ever produced, and keeps V_SER below V_HUF and V_HUF below N_SYM at most 65536; and a step that
begins between commands ends between commands, BUSY 0 and no walk left (00_scope R7). (That WACC keeps its
zero bits after a fault is the model's reading, log entry 13.) -/
def Obligations.StepKeepsRegisterInvariants : Prop :=
  ∀ s t : State, step s = .next t →
    (partialPadded s = true → partialPadded t = true) ∧ (errLegal s = true → errLegal t = true) ∧
    (flagsOrdered s = true → flagsOrdered t = true) ∧ (atRest s = true → atRest t = true)

/-- Every step keeps this: while V_HUF = 1, NODE holds under ROOT a tree with one leaf per visited symbol.
(That V_HUF is 0 after a late fault of EST_SIZE is the model's reading, log entry 9.) -/
def Obligations.StepKeepsTreeSound : Prop :=
  ∀ s t : State, treeSound s → step s = .next t → treeSound t

/-- Every invariant holds after reset. -/
def Obligations.ResetMeetsInvariants : Prop :=
  memoriesCanonical State.reset = true ∧ memoriesInRange State.reset = true ∧
    partialPadded State.reset = true ∧ errLegal State.reset = true ∧ flagsOrdered State.reset = true ∧
    atRest State.reset = true ∧ treeSound State.reset

/-! ### Bit I/O -/

/-- BW_INIT places the writer at ARG0, aligned, and changes nothing else (40_bitio R132). -/
def Obligations.BwInitPlacesWriter : Prop :=
  encode .bwInit = [0x10] ∧ ∀ s : State, s.accepts false = true →
    exec .bwInit s = .next { s with wptr := s.arg0, wacc := 0, wcnt := 0 }

/-- BW_PUT puts bit ARG0[0] at bit WCNT of the partial byte; the eighth bit sends the byte to PK[WPTR];
at WPTR = 2^32 - 1 that raises FormatLimit(WPTR) (40_bitio R130, R131, R133). -/
def Obligations.BwPutAppendsOneBit : Prop :=
  encode .bwPut = [0x11] ∧ ∀ s : State, s.accepts false = true →
    let acc : Byte := s.wacc ||| (((s.arg0.setWidth 1).setWidth 8) <<< s.wcnt.toNat)
    (s.wcnt ≠ 7 → exec .bwPut s = .next { s with wacc := acc, wcnt := s.wcnt + 1 }) ∧
    (s.wcnt = 7 → s.wptr ≠ 0xFFFFFFFF →
      ∃ t, exec .bwPut s = .next t ∧ StoresBytes s.wptr.toNat [acc] s t ∧
        t = { s with wptr := s.wptr + 1, wacc := 0, wcnt := 0, pk := t.pk, wlen := t.wlen, ovf := t.ovf }) ∧
    (s.wcnt = 7 → s.wptr = 0xFFFFFFFF → FaultsWith (exec .bwPut s) (.formatLimit 0xFFFFFFFF))

/-- BW_FLUSH writes the partial byte when there is one and leaves the writer aligned; with WCNT = 0 it
writes nothing (40_bitio R134). -/
def Obligations.BwFlushWritesPartialByte : Prop :=
  encode .bwFlush = [0x12] ∧ ∀ s : State, s.accepts false = true →
    (s.wcnt = 0 → exec .bwFlush s = .next s) ∧
    (s.wcnt ≠ 0 → s.wptr ≠ 0xFFFFFFFF →
      ∃ t, exec .bwFlush s = .next t ∧ StoresBytes s.wptr.toNat [s.wacc] s t ∧
        t = { s with wptr := s.wptr + 1, wacc := 0, wcnt := 0, pk := t.pk, wlen := t.wlen, ovf := t.ovf }) ∧
    (s.wcnt ≠ 0 → s.wptr = 0xFFFFFFFF → FaultsWith (exec .bwFlush s) (.formatLimit 0xFFFFFFFF))

/-- BR_SEEK places the reader at byte ARG0, bit ARG1[2:0]; at or beyond PK_LEN the bit is 0 whatever the
offset (40_bitio R137). -/
def Obligations.BrSeekPlacesReader : Prop :=
  encode .brSeek = [0x13] ∧ ∀ s : State, s.accepts false = true →
    exec .brSeek s = .next { s with
      rpos := s.arg0
      rbit := if s.arg0.toNat < s.pkLen.toNat then s.arg1.setWidth 3 else 0 }

/-- BR_READ returns bit RBIT of PK[RPOS] and moves to the next bit; at or beyond PK_LEN it returns 0 and
the reader stays (40_bitio R135, R136). -/
def Obligations.BrReadReturnsNextBit : Prop :=
  encode .brRead = [0x14] ∧ ∀ s : State, s.accepts false = true →
    (s.pkLen.toNat ≤ s.rpos.toNat → exec .brRead s = .next { s with res0 := 0 }) ∧
    (s.rpos.toNat < s.pkLen.toNat → exec .brRead s = .next { s with
      res0 := if (s.pkByte s.rpos.toNat).getLsbD s.rbit.toNat then 1 else 0
      rpos := if s.rbit = 7 then s.rpos + 1 else s.rpos
      rbit := s.rbit + 1 })

/-- From an aligned writer, putting `k` bits and flushing writes ceil(k/8) bytes, and a reader placed at
their start reads the bits back, followed by zeros (40_bitio R138). -/
def Obligations.PutBitsReadBack : Prop :=
  ∀ (bits : List Bool) (s : State), s.wcnt = 0 → s.wacc = 0 →
    s.wptr.toNat + (bits.length + 7) / 8 ≤ s.pkCap.toNat →
    ∃ t, ((putAll bits s).bind fun _ u => flush u) = .ok () t ∧
      t.wptr.toNat = s.wptr.toNat + (bits.length + 7) / 8 ∧ t.wcnt = 0 ∧ t.ovf = s.ovf ∧
      ∀ len : Word, s.wptr.toNat + (bits.length + 7) / 8 ≤ len.toNat → ReadsBack s.wptr len bits t

/-! ### PK and RAW -/

/-- RawEmit: with DREM = 0 MalformedStream(TP); in verify mode VerifyFail(DPTR) at or beyond RAW_CAP or on
a differing byte; else the byte is emitted (20_memory R67). -/
def Obligations.RawEmitChecksAndEmits : Prop :=
  ∀ (v : Byte) (s : State),
    (s.drem = 0 → rawEmit v s = .raise (.malformedStream s.tp.toNat) s) ∧
    (s.drem ≠ 0 → s.walk.verify = true →
      s.rawCap.toNat ≤ s.dptr.toNat ∨ s.rawByte s.dptr.toNat ≠ v →
      rawEmit v s = .raise (.verifyFail s.dptr.toNat) s) ∧
    (mayEmit [v] s = true → ∃ t, rawEmit v s = .ok () t ∧ EmitsBytes [v] s t)

/-! ### Variable-length integers -/

/-- Decoding vli_bytes(v) gives v and vli_size(v); re-encoding a decoded value gives its bytes back unless
they were FF lo 00 with lo below 255 (41_varint R154). -/
def Obligations.VliRoundTrip : Prop :=
  (∀ v, v ≤ 65535 → ∃ bs, vliBytes v = .ok bs ∧ vliSize v = .ok bs.length ∧
    ∀ (s : State) (a : Nat), a + bs.length ≤ s.pkLen.toNat → pkBytes a bs.length s = bs →
      vliRead a s = .ok (v, bs.length) s) ∧
  (∀ b0 : Byte, b0 ≠ 0xFF → vliBytes b0.toNat = .ok [b0]) ∧
  (∀ lo hi : Byte, vliBytes (leWord lo hi) = .ok [0xFF, lo, hi] ↔ ¬ (hi = 0 ∧ lo.toNat < 255))

/-- VLI_ENC appends vli_bytes(ARG0) and returns their number; it raises, in this order, Operand(WCNT),
FormatLimit(v), FormatLimit(WPTR) (41_varint R152). -/
def Obligations.VliEncAppendsBytes : Prop :=
  encode .vliEnc = [0x20] ∧ ∀ s : State, s.accepts false = true →
    (s.wcnt ≠ 0 → FaultsWith (exec .vliEnc s) (.operand s.wcnt.toNat)) ∧
    (s.wcnt = 0 → 65535 < s.arg0.toNat → FaultsWith (exec .vliEnc s) (.formatLimit s.arg0.toNat)) ∧
    (∀ bs, s.wcnt = 0 → vliBytes s.arg0.toNat = .ok bs → s.wptr.toNat + bs.length ≤ 2 ^ 32 - 1 →
      ∃ t, exec .vliEnc s = .next t ∧ StoresBytes s.wptr.toNat bs s t ∧
        t = { s with wptr := s.wptr + BitVec.ofNat 32 bs.length, res0 := BitVec.ofNat 32 bs.length,
                     pk := t.pk, wlen := t.wlen, ovf := t.ovf }) ∧
    (∀ bs, s.wcnt = 0 → vliBytes s.arg0.toNat = .ok bs → 2 ^ 32 - 1 < s.wptr.toNat + bs.length →
      FaultsWith (exec .vliEnc s) (.formatLimit 0xFFFFFFFF))

/-- VLI_DEC returns the value and the length of the VLI at ARG0; a byte of it at or beyond PK_LEN raises
RangeFault of its address (41_varint R153). -/
def Obligations.VliDecReadsValue : Prop :=
  encode .vliDec = [0x21] ∧ ∀ s : State, s.accepts false = true →
    let a := s.arg0.toNat
    (s.pkLen.toNat ≤ a → FaultsWith (exec .vliDec s) (.rangeFault a)) ∧
    (a < s.pkLen.toNat → s.pkByte a ≠ 0xFF →
      exec .vliDec s = .next { s with res0 := (s.pkByte a).setWidth 32, res1 := 1 }) ∧
    (s.pkLen.toNat = a + 1 → s.pkByte a = 0xFF → FaultsWith (exec .vliDec s) (.rangeFault (a + 1))) ∧
    (s.pkLen.toNat = a + 2 → s.pkByte a = 0xFF → FaultsWith (exec .vliDec s) (.rangeFault (a + 2))) ∧
    (a + 2 < s.pkLen.toNat → s.pkByte a = 0xFF →
      exec .vliDec s = .next { s with
        res0 := (s.pkByte (a + 1)).setWidth 32 + 256 * (s.pkByte (a + 2)).setWidth 32
        res1 := 3 })

/-- The two forms, met at the position of a VLI_DEC: VLI.SHORT gives its byte and length 1, VLI.LONG gives
lo + 256 hi and length 3. (That a form is executed by itself is the model's choice, log entry 4.) -/
def Obligations.VliFormsGiveValueAndLength : Prop :=
  ∀ (b0 lo hi : Byte) (s : State),
    exec (.vliShort b0) s = .next { s with res0 := b0.setWidth 32, res1 := 1, walk := Walk.none } ∧
    exec (.vliLong lo hi) s =
      .next { s with res0 := lo.setWidth 32 + 256 * hi.setWidth 32, res1 := 3, walk := Walk.none }

/-! ### The Huffman tree -/

/-- HUF_BUILD over an alphabet of at most 65536 symbols and a stream of its symbols: FREQ counts the tokens,
the leaves of NODE are the visited symbols in ascending order, NLEAF, NNODE, ROOT, RES0 and RES1 are as the
rule says, V_HUF is set and V_SER cleared (42_huffman R161, 10_state R45). -/
def Obligations.HufBuildCountsAndBuilds : Prop :=
  encode .hufBuild = [0x30] ∧ ∀ s : State, s.accepts false = true → s.nSym.toNat ≤ 65536 →
    tokensInAlphabet s = true →
    ∃ t, exec .hufBuild s = .next t ∧ t.vHuf = true ∧ t.vSer = false ∧
      (∀ id, id < s.nSym.toNat → (t.freqOf id).toNat = s.tokens.count (.sym id)) ∧
      t.nleaf.toNat = t.visitedIds.length ∧
      (List.range t.nleaf.toNat).map t.node.find =
        t.visitedIds.map (fun id => some (.leaf id (t.freqOf id))) ∧
      t.nnode.toNat = 2 * t.nleaf.toNat - 1 ∧
      t.root = (if t.nleaf = 0 then noneWord else t.nnode - 1) ∧
      t.res0 = t.nleaf ∧ t.res1 = t.nnode

/-- The tree that a completed HUF_BUILD leaves, whatever choice TIEBREAK makes: one leaf per visited symbol;
every internal entry has two children, both earlier entries, and its count is their counts' sum; the root's
count is the number of Sym tokens (42_huffman R164). -/
def Obligations.HufBuildTreeHasVisitedLeaves : Prop :=
  ∀ s t : State, s.accepts false = true → exec .hufBuild s = .next t → t.err = 0 →
    (∃ tr, t.tree = some tr ∧ (tableSyms tr).Perm t.visitedIds) ∧
    (∀ n a b c, n < t.nnode.toNat → t.node.find n = some (.internal a b c) →
      a < n ∧ b < n ∧ a ≠ b ∧ ∃ ea eb, t.node.find a = some ea ∧ t.node.find b = some eb ∧
        c.toNat = ea.count.toNat + eb.count.toNat) ∧
    (t.root ≠ noneWord → ∃ e, t.node.find t.root.toNat = some e ∧
      e.count.toNat = s.tokens.countP (fun x => decide (x ≠ .split)))

/-- N_SYM above 65536 raises Operand(N_SYM); else the first token of SS outside the alphabet raises
Operand of its id; HUF_BUILD and EST_SIZE alike, and after the fault nothing is valid (42_huffman R161). -/
def Obligations.TreeBuildFaults : Prop :=
  ∀ s : State, s.accepts false = true → ∀ i, i ∈ [Instr.hufBuild, .estSize] →
    (65536 < s.nSym.toNat → FaultsWith (exec i s) (.operand s.nSym.toNat) ∧
      ∀ t, exec i s = .next t → t.vHuf = false ∧ t.vSer = false) ∧
    (∀ k id, s.nSym.toNat ≤ 65536 → k < s.ssLen.toNat → s.token k = .sym id → s.nSym.toNat ≤ id →
      (∀ j, j < k → ∀ m, s.token j = .sym m → m < s.nSym.toNat) →
      FaultsWith (exec i s) (.operand id) ∧
        ∀ t, exec i s = .next t → t.vHuf = false ∧ t.vSer = false)

/-- With no Sym token the tree is empty, ROOT is NONE and there is no fault; with one distinct symbol it is
that symbol's leaf, at depth 0, and costs no bits (42_huffman R163, R165). -/
def Obligations.HeightZeroTrees : Prop :=
  ∀ (s : State) (x : Nat), s.accepts false = true → s.nSym.toNat ≤ 65536 → x < s.nSym.toNat →
    s.tokens.all (fun t => decide (t = .split ∨ t = .sym x)) = true →
    ∃ t, exec .hufBuild s = .next t ∧ t.vHuf = true ∧
      (Token.sym x ∉ s.tokens → t.nleaf = 0 ∧ t.nnode = 0 ∧ t.root = noneWord ∧ t.tree = some none) ∧
      (Token.sym x ∈ s.tokens → t.nleaf = 1 ∧ t.nnode = 1 ∧ t.root = 0 ∧
        t.tree = some (some (.leaf x (t.freqOf x)))) ∧
      ∃ u, exec .hufBits t = .next u ∧ u.res0 = 0 ∧ u.res1 = 0

/-- HUF_BITS returns tree_bits(ROOT), low word in RES0, high word in RES1: over the leaves, the sum of count
times depth, 0 for an empty tree; without a valid tree it raises StateFault (42_huffman R165). -/
def Obligations.HufBitsReturnsTreeBits : Prop :=
  encode .hufBits = [0x31] ∧
  (∀ s : State, s.accepts false = true → s.vHuf = false →
    FaultsWith (exec .hufBits s) (.stateFault 0x31)) ∧
  (∀ (sym d : Nat) (c : Word) (a b : HTree), treeBits none = 0 ∧ treeBits (some a) = treeBitsAt a 0 ∧
    treeBitsAt (.leaf sym c) d = c.toNat * d ∧
    treeBitsAt (.node a b) d = treeBitsAt a (d + 1) + treeBitsAt b (d + 1)) ∧
  ∀ (s : State) (tr : Option HTree), s.accepts false = true → s.vHuf = true → s.tree = some tr →
    ∃ t, exec .hufBits s = .next t ∧ t = { s with res0 := t.res0, res1 := t.res1 } ∧
      t.res0.toNat + 2 ^ 32 * t.res1.toNat = treeBits tr % 2 ^ 64

/-! ### The serializer -/

/-- best_suffix: the longest candidate, the lowest id among equally long ones; (NONE, 0) when no candidate
has a byte (43_serializer R181). -/
def Obligations.BestSuffixIsLongestCandidate : Prop :=
  ∀ (s : State) (id : Nat),
    ((bestSuffix s id).2 = 0 → (bestSuffix s id).1 = noneWord) ∧
    ((bestSuffix s id).2 ≠ 0 → ∃ t, (bestSuffix s id).1 = BitVec.ofNat 32 t ∧ IsCandidate s id t ∧
      s.symLen t = (bestSuffix s id).2 ∧
      ∀ u, u < t → IsCandidate s id u → s.symLen u < (bestSuffix s id).2) ∧
    (∀ u, IsCandidate s id u → s.symLen u ≤ (bestSuffix s id).2)

/-- What sfx_all writes, and where its links lead: each visited symbol's entry is its best suffix, a linked
symbol is visited, shorter, and supplies the tail of the bytes, and no chain has more than 254 links
(43_serializer R183, R194). -/
def Obligations.SuffixChainsShortenAndEnd : Prop :=
  ∀ s : State,
    (∀ v, (writeSfx s).sfxOf v = if s.visited v then (bestSuffix s v).1 else s.sfxOf v) ∧
    (∀ v, s.visited v = true → (writeSfx s).sfxOf v ≠ noneWord →
      let u := ((writeSfx s).sfxOf v).toNat
      s.visited u = true ∧ s.symLen u < s.symLen v ∧
        s.symBytes v = (s.symBytes v).take (s.symLen v - s.symLen u) ++ s.symBytes u) ∧
    (∀ (f : Nat → Nat) (n : Nat), s.visited (f 0) = true →
      (∀ k, k < n → (writeSfx s).sfxOf (f k) ≠ noneWord ∧ f (k + 1) = ((writeSfx s).sfxOf (f k)).toNat) →
      n ≤ 254)

/-- SFX_FIND returns best_suffix(ARG0) and its length; an id outside the alphabet or a symbol without bytes
raises Operand(ARG0) (43_serializer R182). -/
def Obligations.SfxFindReturnsBestSuffix : Prop :=
  encode .sfxFind = [0x40] ∧ ∀ s : State, s.accepts false = true →
    (s.vHuf = false → FaultsWith (exec .sfxFind s) (.stateFault 0x40)) ∧
    (s.vHuf = true → s.nSym.toNat ≤ 65536 → s.arg0.toNat < s.nSym.toNat → s.symLen s.arg0.toNat ≠ 0 →
      exec .sfxFind s = .next { s with
        res0 := (bestSuffix s s.arg0.toNat).1
        res1 := BitVec.ofNat 32 (bestSuffix s s.arg0.toNat).2 }) ∧
    (s.vHuf = true → s.nSym.toNat ≤ 65536 → s.nSym.toNat ≤ s.arg0.toNat ∨ s.symLen s.arg0.toNat = 0 →
      FaultsWith (exec .sfxFind s) (.operand s.arg0.toNat))

/-- leaf_size and size by their cases (43_serializer R184, R185): a leaf is 2, 2 + L or 4 + L - M bytes, a node
its skip field of one or three bytes and its subtrees, FormatLimit of a skip value above 65535. SER_SIZE writes
SFX and returns size(ROOT), 0 for an empty tree; SER_SIZE and SER_BUILD raise Operand for the first visited
symbol without bytes, else what size raises (R186, R190). -/
def Obligations.SerSizeReturnsTableSize : Prop :=
  encode .serSize = [0x41] ∧
  (∀ (s : State) (id : Nat),
    (s.symLen id = 1 → leafSize s id = 2) ∧
    (s.symLen id ≠ 1 → s.sfxOf id = noneWord → leafSize s id = 2 + s.symLen id) ∧
    (s.symLen id ≠ 1 → s.sfxOf id ≠ noneWord →
      leafSize s id = 4 + s.symLen id - s.symLen (s.sfxOf id).toNat)) ∧
  (∀ (s : State) (id : Nat) (c : Word) (a b : HTree), tableSize s none = .ok 0 ∧
    tableSize s (some a) = treeSize s a ∧ treeSize s (.leaf id c) = .ok (leafSize s id) ∧
    (∀ e, treeSize s a = .error e → treeSize s (.node a b) = .error e) ∧
    ∀ sa, treeSize s a = .ok sa →
      (∀ e, treeSize s b = .error e → treeSize s (.node a b) = .error e) ∧
      ∀ sb, treeSize s b = .ok sb →
        let skip := min sa sb + 1
        (skip ≤ 254 → treeSize s (.node a b) = .ok (1 + sa + sb)) ∧
        (254 < skip → skip ≤ 65535 → treeSize s (.node a b) = .ok (3 + sa + sb)) ∧
        (65535 < skip → treeSize s (.node a b) = .error (.formatLimit (skip % 2 ^ 32)))) ∧
  (∀ s : State, s.accepts false = true → s.vHuf = false →
    FaultsWith (exec .serSize s) (.stateFault 0x41)) ∧
  ∀ (s : State) (tr : Option HTree), s.accepts false = true → s.vHuf = true →
    s.nSym.toNat ≤ 65536 → s.tree = some tr →
    (∀ n, visitedHaveBytes s = true → tableSize (writeSfx s) tr = .ok n →
      exec .serSize s = .next { writeSfx s with res0 := BitVec.ofNat 32 n }) ∧
    (∀ c, visitedHaveBytes s = true → tableSize (writeSfx s) tr = .error c →
      FaultsWith (exec .serSize s) c ∧ FaultsWith (exec .serBuild s) c) ∧
    (∀ id, s.visited id = true → s.symLen id = 0 →
      (∀ j, j < id → s.visited j = true → s.symLen j ≠ 0) →
      FaultsWith (exec .serSize s) (.operand id) ∧ FaultsWith (exec .serBuild s) (.operand id))

/-- Estimator and builder in lock-step: whenever emit completes, for any node and any code, it has advanced
WPTR by exactly the node's size; and it completes when the bytes fit below 2^32 - 1 (43_serializer R192). -/
def Obligations.EmitAdvancesBySize : Prop :=
  ∀ (s : State) (tr : HTree) (code : List Bool) (n : Nat), treeSize s tr = .ok n →
    (∀ id, id ∈ leafSyms tr → s.sfxOf id ≠ noneWord → s.symLen (s.sfxOf id).toNat ≤ s.symLen id) →
    (∀ t, emitTree tr code s = .ok () t → t.wptr.toNat = s.wptr.toNat + n) ∧
    (s.wptr.toNat + n ≤ 2 ^ 32 - 1 → ∃ t, emitTree tr code s = .ok () t)

/-- When SER_BUILD completes: V_SER set, the table's size in TLEN and RES0, the writer aligned just after it;
SFX, SOFF and CODE set for every visited symbol, each leaf at its place in the serialized order; NFIX and FIX
recording a fixup for each LEAF.X; and in PK, as far as PK_CAP allows, the finished table: each node its skip
field, the smaller child left, each leaf in its form, every suffix offset that of the shared symbol's entry
(43_serializer R187 to R191, 10_state R47 to R49). The premise on offsets is R191's: every offset that a
fixup writes fits 16 bits. -/
def Obligations.SerBuildCompletes : Prop :=
  encode .serBuild = [0x42] ∧ ∀ (s : State) (tr : Option HTree) (n : Nat), s.accepts false = true →
    s.vHuf = true → s.nSym.toNat ≤ 65536 → visitedHaveBytes s = true → s.tree = some tr →
    (tableSyms tr).Perm s.visitedIds → tableSize (writeSfx s) tr = .ok n → s.tbase.toNat + n ≤ 2 ^ 32 - 1 →
    let u := writeSfx s
    let ps := tablePlacements u tr
    let fs := tableFixups u ps
    (ps.map (fun p => p.sym)).Perm s.visitedIds ∧
    ((∀ (f : Fixup) (p : Placement), f ∈ fs → p ∈ ps → p.sym = f.target → p.offset ≤ 65535) →
      ∃ t, exec .serBuild s = .next t ∧ t.vSer = true ∧ t.vHuf = true ∧
        t.tlen = BitVec.ofNat 32 n ∧ t.res0 = BitVec.ofNat 32 n ∧
        t.wptr.toNat = s.tbase.toNat + n ∧ t.wcnt = 0 ∧ t.wacc = 0 ∧
        t.ovf = (s.ovf || decide (0 < n ∧ s.pkCap.toNat < s.tbase.toNat + n)) ∧
        t.wlen.toNat = (if n = 0 then s.wlen.toNat else max s.wlen.toNat (s.tbase.toNat + n)) ∧
        (∀ id, s.visited id = true → t.sfxOf id = (bestSuffix s id).1 ∧ (t.soffOf id).toNat < n) ∧
        (∀ p, p ∈ ps → (t.soffOf p.sym).toNat = p.offset ∧ t.codeOf p.sym = p.code) ∧
        t.nfix.toNat = fs.length ∧ (List.range fs.length).map t.fix.find = fs.map some ∧
        (tableText u (fun id => (t.soffOf id).toNat) tr).length = n ∧
        StoresBytes s.tbase.toNat (tableText u (fun id => (t.soffOf id).toNat) tr) s t)

/-- EST_SIZE is HUF_BUILD's body, tree_bits in RES0 and RES1, the table's size in RES2; V_HUF is set, V_SER
cleared, RES0 to RES2 are the only results (43_serializer R193). -/
def Obligations.EstSizeReturnsBitsAndBytes : Prop :=
  encode .estSize = [0x43] ∧ ∀ (s : State) (tr : Option HTree) (n : Nat), s.accepts false = true →
    s.nSym.toNat ≤ 65536 → tokensInAlphabet s = true →
    let u := writeSfx (writeTree (clearTree s))
    visitedHaveBytes u = true → u.tree = some tr → tableSize u tr = .ok n →
    exec .estSize s = .next { u with
      res0 := lowWord (treeBits tr)
      res1 := highWord (treeBits tr)
      res2 := BitVec.ofNat 32 n
      vHuf := true }

/-- EST_SIZE gives what HUF_BUILD, then HUF_BITS, then SER_SIZE give, in one command (43_serializer R193,
70_reset R304). -/
def Obligations.EstSizeIsBuildBitsAndSize : Prop :=
  ∀ s a b c : State, s.accepts false = true → CompletesTo (exec .hufBuild s) a →
    CompletesTo (exec .hufBits a) b → CompletesTo (exec .serSize b) c →
    ∃ d, CompletesTo (exec .estSize s) d ∧ d.res0 = b.res0 ∧ d.res1 = b.res1 ∧ d.res2 = c.res0 ∧
      d.freq = c.freq ∧ d.node = c.node ∧ d.root = c.root ∧ d.sfx = c.sfx ∧ d.vHuf = true ∧
      d.vSer = false

/-! ### Coding a block -/

/-- ENC_SYM puts the bits of the symbol's code, whatever WCNT is; a symbol outside the alphabet or not
visited raises Operand(s) (45_block_encode R240). -/
def Obligations.EncSymPutsCode : Prop :=
  encode .encSym = [0x50] ∧
  (∀ s : State, s.accepts false = true → s.vSer = false →
    FaultsWith (exec .encSym s) (.stateFault 0x50)) ∧
  ∀ s : State, s.accepts false = true → s.vSer = true → s.nSym.toNat ≤ 65536 →
    (s.visited s.arg0.toNat = true →
      s.wptr.toNat + (s.wcnt.toNat + (s.codeOf s.arg0.toNat).length) / 8 ≤ 2 ^ 32 - 1 →
      ∃ t, exec .encSym s = .next t ∧ putAll (s.codeOf s.arg0.toNat) s = .ok () t ∧
        8 * t.wptr.toNat + t.wcnt.toNat =
          8 * s.wptr.toNat + s.wcnt.toNat + (s.codeOf s.arg0.toNat).length) ∧
    (s.visited s.arg0.toNat = true →
      2 ^ 32 - 1 < s.wptr.toNat + (s.wcnt.toNat + (s.codeOf s.arg0.toNat).length) / 8 →
      FaultsWith (exec .encSym s) (.formatLimit 0xFFFFFFFF)) ∧
    (s.visited s.arg0.toNat = false → FaultsWith (exec .encSym s) (.operand s.arg0.toNat))

/-- ENC_BLOCK codes the run of visited symbols from token ARG0 up to the next Split or the end of SS into a
bit region of ceil(B/8) bytes that reads back as the codes and zeros; RES0 is its start, RES1 the first token
of the next block; an unaligned writer raises Operand(WCNT), a symbol without a code Operand of its id
(45_block_encode R241, R242). -/
def Obligations.EncBlockCodesRun : Prop :=
  encode .encBlock = [0x51] ∧
  (∀ s : State, s.accepts false = true → s.vSer = false →
    FaultsWith (exec .encBlock s) (.stateFault 0x51)) ∧
  ∀ s : State, s.accepts false = true → s.vSer = true → s.nSym.toNat ≤ 65536 →
    let k := s.arg0.toNat
    let m := s.ssLen.toNat - k
    let n := ((runCode m k s).length + 7) / 8
    (s.wcnt ≠ 0 → FaultsWith (exec .encBlock s) (.operand s.wcnt.toNat)) ∧
    (s.wcnt = 0 → runVisited m k s = true → s.wptr.toNat + n ≤ 2 ^ 32 - 1 →
      ∃ t, exec .encBlock s = .next t ∧ t.res0 = s.wptr ∧ t.wptr.toNat = s.wptr.toNat + n ∧ t.wcnt = 0 ∧
        t.res1.toNat = k + runLength m k s + (if k + runLength m k s < s.ssLen.toNat then 1 else 0) ∧
        (s.wacc = 0 → s.wptr.toNat + n ≤ s.pkCap.toNat → t.ovf = s.ovf ∧
          ∀ len : Word, s.wptr.toNat + n ≤ len.toNat → ReadsBack s.wptr len (runCode m k s) t)) ∧
    (s.wcnt = 0 → runVisited m k s = true → 2 ^ 32 - 1 < s.wptr.toNat + n →
      FaultsWith (exec .encBlock s) (.formatLimit 0xFFFFFFFF)) ∧
    (∀ l id, s.wcnt = 0 → l < m → runVisited l k s = true → runLength l k s = l →
      s.token (k + l) = .sym id → s.visited id = false →
      s.wptr.toNat + (runCode l k s).length / 8 ≤ 2 ^ 32 - 1 →
      FaultsWith (exec .encBlock s) (.operand id))

/-! ### Decoding -/

/-- BR and BRL, outside the emission phase: one stream bit, left to the next byte after the header, right by
the skip; in the emission phase MalformedStream(p) (44_decode R211, R212, R216). -/
def Obligations.BranchNodesFollowStreamBit : Prop :=
  ∀ (s : State) (h lo hi : Byte),
    (s.walk.phase = .descent →
      exec (.br h) s = .next { s with
        rpos := (bitRead s).2.rpos
        rbit := (bitRead s).2.rbit
        walk := { s.walk with
          pos := if (bitRead s).1 then s.walk.pos + h.toNat else s.walk.pos + 1 } } ∧
      exec (.brl lo hi) s = .next { s with
        rpos := (bitRead s).2.rpos
        rbit := (bitRead s).2.rbit
        walk := { s.walk with
          pos := if (bitRead s).1 then s.walk.pos + 3 + (lo.toNat + 256 * hi.toNat) - 1
                 else s.walk.pos + 3 } }) ∧
    (s.walk.phase = .emission → FaultsWith (exec (.br h) s) (.malformedStream s.walk.pos) ∧
      FaultsWith (exec (.brl lo hi) s) (.malformedStream s.walk.pos))

/-- LEAF.B emits its byte, LEAF.S its string, and the symbol ends; LEAF.X emits its partial bytes and jumps
to TBASE + off, staying in emission. Each puts its address in TP (44_decode R213, R214, R215). -/
def Obligations.LeafNodesEmit : Prop :=
  ∀ s : State,
    (∀ d, mayEmit [d] s = true →
      ∃ t, exec (.leafB d) s = .next t ∧ EmitsBytes [d] s t ∧ t.tp = BitVec.ofNat 32 s.walk.pos ∧
        t.walk.phase = .idle) ∧
    (∀ n : Byte, s.walk.pos + 2 + n.toNat ≤ s.pkLen.toNat →
      mayEmit (pkBytes (s.walk.pos + 2) n.toNat s) s = true →
      ∃ t, exec (.leafS n) s = .next t ∧ EmitsBytes (pkBytes (s.walk.pos + 2) n.toNat s) s t ∧
        t.tp = BitVec.ofNat 32 s.walk.pos ∧ t.walk.phase = .idle) ∧
    (∀ n : Byte, s.walk.pos + 4 + n.toNat ≤ s.pkLen.toNat →
      mayEmit (pkBytes (s.walk.pos + 2) n.toNat s) s = true →
      ∃ t, exec (.leafX n) s = .next t ∧ EmitsBytes (pkBytes (s.walk.pos + 2) n.toNat s) s t ∧
        t.tp = BitVec.ofNat 32 s.walk.pos ∧ t.walk.phase = .emission ∧
        t.walk.pos = s.tbase.toNat + (s.pkByte (s.walk.pos + 2 + n.toNat)).toNat +
          256 * (s.pkByte (s.walk.pos + 3 + n.toNat)).toNat)

/-- Where a leaf faults, byte `j` of what it emits being the first that cannot be: RangeFault of its address
where it cannot be read, MalformedStream of the entry where the block has no room for it, VerifyFail(DPTR + j)
where in verify mode it lies at or beyond RAW_CAP or differs; each byte is read before it is emitted, and
LEAF.X reads its two offset bytes after them (44_decode R213, R214, R215, 60_exceptions R274). -/
def Obligations.LeafNodesFault : Prop :=
  ∀ s : State,
    (∀ d, s.drem = 0 → FaultsWith (exec (.leafB d) s) (.malformedStream s.walk.pos)) ∧
    (∀ d, s.drem ≠ 0 → s.walk.verify = true →
      s.rawCap.toNat ≤ s.dptr.toNat ∨ s.rawByte s.dptr.toNat ≠ d →
      FaultsWith (exec (.leafB d) s) (.verifyFail s.dptr.toNat)) ∧
    (∀ (n : Byte) (j : Nat) (i : Instr), j < n.toNat → i = .leafS n ∨ i = .leafX n →
      mayEmit (pkBytes (s.walk.pos + 2) j s) s = true →
      (s.pkLen.toNat = s.walk.pos + 2 + j → FaultsWith (exec i s) (.rangeFault (s.walk.pos + 2 + j))) ∧
      (s.walk.pos + 2 + j < s.pkLen.toNat → s.drem.toNat = j →
        FaultsWith (exec i s) (.malformedStream s.walk.pos)) ∧
      (s.walk.pos + 2 + j < s.pkLen.toNat → j < s.drem.toNat → s.walk.verify = true →
        s.rawCap.toNat ≤ s.dptr.toNat + j ∨ s.rawByte (s.dptr.toNat + j) ≠ s.pkByte (s.walk.pos + 2 + j) →
        FaultsWith (exec i s) (.verifyFail (s.dptr.toNat + j)))) ∧
    (∀ n : Byte, mayEmit (pkBytes (s.walk.pos + 2) n.toNat s) s = true →
      (s.pkLen.toNat = s.walk.pos + 2 + n.toNat →
        FaultsWith (exec (.leafX n) s) (.rangeFault (s.walk.pos + 2 + n.toNat))) ∧
      (s.pkLen.toNat = s.walk.pos + 3 + n.toNat →
        FaultsWith (exec (.leafX n) s) (.rangeFault (s.walk.pos + 3 + n.toNat))))

/-- DEC_SYM runs the walk of one symbol from TBASE, in the mode ARG0[0], and returns the number of bytes it
emitted (44_decode R217, R221). The walk is a sequence of steps, each of which runs the node that stands
there: `nodeStep` goes through exactly where `step` does without a fault, and to the same state (that a node is
a step by itself is log entry 4). The walk ends within the model's bound, which no ending walk exceeds (log
entry 10, the statement EndingRunsStayWithinBounds). -/
def Obligations.DecSymRunsOneWalk : Prop :=
  encode .decSym = [0x60] ∧
  (∀ s u : State, s.walk.phase = .descent ∨ s.walk.phase = .emission → s.err = 0 →
    (nodeStep s = .ok () u ↔ step s = .next u ∧ u.err = 0)) ∧
  ∀ (s t : State) (k : Nat), s.accepts false = true →
    s.dptr.toNat + s.drem.toNat ≤ 2 ^ 32 - 1 → k ≤ walkBound s →
    WalkEndsIn k (startWalk s.arg0Bit s) t →
    exec .decSym s = .next { t with res0 := BitVec.ofNat 32 t.walk.count, walk := Walk.none }

/-- DEC_BLOCK loads DREM from ARG0 and decodes symbols in the mode ARG1[0] until DREM is 0: RES0 is ARG0, DPTR
has advanced by ARG0 (44_decode R222). The number of symbols is within the model's bound, which no ending
block exceeds (log entry 10, the statement EndingRunsStayWithinBounds). -/
def Obligations.DecBlockDecodesUntilDremZero : Prop :=
  encode .decBlock = [0x61] ∧ ∀ (s t : State) (k : Nat), s.accepts false = true →
    s.dptr.toNat + s.arg0.toNat ≤ 2 ^ 32 - 1 → k < blockBound { s with drem := s.arg0 } →
    SymbolsLeadTo s.arg1Bit k { s with drem := s.arg0 } t → t.drem = 0 →
    exec .decBlock s = .next { t with res0 := s.arg0, walk := Walk.none } ∧
      t.dptr.toNat = s.dptr.toNat + s.arg0.toNat

/-- No walk and no block that ends is cut off by the model's bounds: the fault walkNeverEnds stands only for
runs that never end (44_decode R224, 93 U3; the bounds are the model's, log entry 10). -/
def Obligations.EndingRunsStayWithinBounds : Prop :=
  (∀ (k : Nat) (verify : Bool) (s t : State), WalkEndsIn k (startWalk verify s) t → k ≤ walkBound s) ∧
  (∀ (k : Nat) (verify : Bool) (s t : State), SymbolsLeadTo verify k s t → t.drem = 0 → k < blockBound s)

/-- The height-0 table, a leaf entry at TBASE, is read without a stream bit (44_decode R223). DEC_SYM, in either
mode, emits the byte of a LEAF.B, or the string of a LEAF.S, once, and returns the number of bytes, TP at the
entry (R221, R213, R214). DEC_BLOCK in write mode, on a LEAF.B, emits its byte ARG0 times (R222). -/
def Obligations.HeightZeroTableReadsNoBit : Prop :=
  (∀ (s : State) (bytes : List Byte), s.accepts false = true → s.dptr.toNat + s.drem.toNat ≤ 2 ^ 32 - 1 →
    (s.pkByte s.tbase.toNat = 0x00 ∧ s.tbase.toNat + 1 < s.pkLen.toNat ∧
        bytes = [s.pkByte (s.tbase.toNat + 1)]) ∨
      (s.pkByte s.tbase.toNat = 0x01 ∧ s.tbase.toNat + 1 < s.pkLen.toNat ∧
        s.tbase.toNat + 2 + (s.pkByte (s.tbase.toNat + 1)).toNat ≤ s.pkLen.toNat ∧
        bytes = pkBytes (s.tbase.toNat + 2) (s.pkByte (s.tbase.toNat + 1)).toNat s) →
    mayEmit bytes (startWalk s.arg0Bit s) = true →
    ∃ u, EmitsBytes bytes (startWalk s.arg0Bit s) u ∧
      exec .decSym s = .next { u with res0 := BitVec.ofNat 32 bytes.length, walk := Walk.none } ∧
      u.rpos = s.rpos ∧ u.rbit = s.rbit ∧ u.tp = s.tbase) ∧
  ∀ s : State, s.accepts false = true → s.arg1Bit = false → s.tbase.toNat + 1 < s.pkLen.toNat →
    s.pkByte s.tbase.toNat = 0x00 → s.dptr.toNat + s.arg0.toNat ≤ 2 ^ 32 - 1 →
    ∃ t, exec .decBlock s = .next t ∧ t.rpos = s.rpos ∧ t.rbit = s.rbit ∧ t.drem = 0 ∧ t.res0 = s.arg0 ∧
      t.dptr.toNat = s.dptr.toNat + s.arg0.toNat ∧
      ∀ a, t.rawByte a =
        if s.dptr.toNat ≤ a ∧ a < s.dptr.toNat + s.arg0.toNat ∧ a < s.rawCap.toNat then
          s.pkByte (s.tbase.toNat + 1)
        else s.rawByte a

/-- A decode command whose length would carry DPTR past 2^32 - 1 raises Operand(L) before anything else
(44_decode R220). -/
def Obligations.DecodeLengthFaults : Prop :=
  ∀ s : State, s.accepts false = true →
    (2 ^ 32 - 1 < s.dptr.toNat + s.drem.toNat → FaultsWith (exec .decSym s) (.operand s.drem.toNat)) ∧
    (2 ^ 32 - 1 < s.dptr.toNat + s.arg0.toNat → FaultsWith (exec .decBlock s) (.operand s.arg0.toNat))

/-- Round trip of one symbol: the table that SER_BUILD leaves, with no byte dropped, decodes the code of any
visited symbol to that symbol's bytes, suffix chains included (44_decode R217, 43_serializer R188, R194). -/
def Obligations.TableDecodesEverySymbol : Prop :=
  ∀ (s t u : State) (tr : Option HTree) (id : Nat), s.accepts false = true → s.vHuf = true →
    s.tree = some tr → (tableSyms tr).Perm s.visitedIds → exec .serBuild s = .next t → t.err = 0 →
    s.tbase.toNat + t.tlen.toNat ≤ s.pkCap.toNat → s.visited id = true →
    u.pk = t.pk → u.tbase = s.tbase → s.tbase.toNat + t.tlen.toNat ≤ u.pkLen.toNat →
    readBits (t.codeOf id).length u = t.codeOf id →
    s.symLen id ≤ u.drem.toNat → u.dptr.toNat + s.symLen id < 2 ^ 32 →
    ∃ v, decSymbol false u = .ok (s.symLen id) v ∧ EmitsBytes (s.symBytes id) (startWalk false u) v ∧
      v.rpos = (skipBits (t.codeOf id).length u).rpos ∧ v.rbit = (skipBits (t.codeOf id).length u).rbit
end

