-- ==== Sys2Proof/Laws/Memory.lean ====
section
/-! SUPPORT. The laws of memories: a read after a write, writes and blurs leave other cells alone, every
operation keeps the canonical form. -/

namespace Sys2Proof.Machine

variable {α : Type}

@[simp] theorem cellsFind_put_same (l : List (Nat × α)) (a : Nat) (v : α) :
    cellsFind (cellsPut l a v) a = some v := by
  induction l with
  | nil => simp [cellsPut, cellsFind]
  | cons c rest ih =>
    obtain ⟨b, w⟩ := c
    simp only [cellsPut]
    split
    · simp [cellsFind]
    · split
      · simp [cellsFind]
      · next h => simp [cellsFind, h, ih]

theorem cellsFind_put_other (l : List (Nat × α)) {a b : Nat} (v : α) (h : b ≠ a) :
    cellsFind (cellsPut l a v) b = cellsFind l b := by
  induction l with
  | nil => simp [cellsPut, cellsFind, h]
  | cons c rest ih =>
    obtain ⟨k, w⟩ := c
    simp only [cellsPut]
    split
    · simp [cellsFind, h]
    · split
      · next hk => subst hk; simp [cellsFind, h]
      · simp [cellsFind, ih]

theorem cellsFind_filter (l : List (Nat × α)) (p : Nat → Bool) (a : Nat) :
    cellsFind (l.filter (fun c => p c.1)) a = if p a then cellsFind l a else none := by
  induction l with
  | nil => simp [cellsFind]
  | cons c rest ih =>
    obtain ⟨b, w⟩ := c
    by_cases hb : p b
    · by_cases ha : a = b
      · subst ha; simp [hb, cellsFind]
      · simp [hb, cellsFind, ha, ih]
    · by_cases ha : a = b
      · subst ha; simp [hb, ih]
      · simp [hb, cellsFind, ha, ih]

theorem cellsFind_fill (f : Nat → α) (n k a : Nat) :
    cellsFind (fillCells f k n) a = if k ≤ a ∧ a < k + n then some (f a) else none := by
  induction n generalizing k with
  | zero => simp [fillCells, cellsFind]
  | succ n ih =>
    simp only [fillCells, cellsFind, ih]
    by_cases h : a = k
    · subst h; simp
    · have : (k + 1 ≤ a ∧ a < k + 1 + n) ↔ (k ≤ a ∧ a < k + (n + 1)) := by omega
      rw [if_neg h]
      simp only [this]

theorem cellsFind_append (l m : List (Nat × α)) (a : Nat) :
    cellsFind (l ++ m) a = (cellsFind l a).or (cellsFind m a) := by
  induction l with
  | nil => simp [cellsFind]
  | cons c rest ih =>
    obtain ⟨b, w⟩ := c
    by_cases h : a = b <;> simp [cellsFind, h, ih]

/-! ### Find and read -/

@[simp] theorem Memory.blurs_write (m : Memory α) (a : Nat) (v : α) : (m.write a v).blurs = m.blurs := rfl

@[simp] theorem Memory.blurs_fill (m : Memory α) (n : Nat) (f : Nat → α) :
    (m.fill n f).blurs = m.blurs := rfl

@[simp] theorem Memory.find_write_same (m : Memory α) (a : Nat) (v : α) :
    (m.write a v).find a = some v := by simp [Memory.find, Memory.write]

theorem Memory.find_write_other (m : Memory α) {a b : Nat} (v : α) (h : b ≠ a) :
    (m.write a v).find b = m.find b := by simp [Memory.find, Memory.write, cellsFind_put_other _ v h]

theorem Memory.find_fill (m : Memory α) (n : Nat) (f : Nat → α) (a : Nat) :
    (m.fill n f).find a = if a < n then some (f a) else m.find a := by
  have := cellsFind_filter m.cells (fun c => decide (n ≤ c)) a
  by_cases h : a < n
  · simp [Memory.find, Memory.fill, cellsFind_append, cellsFind_fill, h]
  · have h' : n ≤ a := by omega
    simp [Memory.find, Memory.fill, cellsFind_append, cellsFind_fill, h, this, h']

@[simp] theorem Memory.read_write_same (free : Nat → Nat → α) (m : Memory α) (a : Nat) (v : α) :
    (m.write a v).read free a = v := by simp [Memory.read]

theorem Memory.read_write_other (free : Nat → Nat → α) (m : Memory α) {a b : Nat} (v : α) (h : b ≠ a) :
    (m.write a v).read free b = m.read free b := by
  simp [Memory.read, Memory.find_write_other m v h]

theorem Memory.read_fill (free : Nat → Nat → α) (m : Memory α) (n : Nat) (f : Nat → α) (a : Nat) :
    (m.fill n f).read free a = if a < n then f a else m.read free a := by
  by_cases h : a < n <;> simp [Memory.read, Memory.find_fill, h]

/-- A blur leaves the cells outside its range as they were. -/
theorem Memory.read_blur_outside (free : Nat → Nat → α) (m : Memory α) {lo hi a : Nat} (gen : Nat)
    (h : a < lo ∨ hi ≤ a) : (m.blur lo hi gen).read free a = m.read free a := by
  unfold Memory.blur
  split
  · have hf := cellsFind_filter m.cells (fun c => decide (c < lo ∨ hi ≤ c)) a
    have hg : ¬ (lo ≤ a ∧ a < hi) := by omega
    simp only [decide_eq_true h, if_true] at hf
    simp only [Memory.read, Memory.find, hf, blurGen, hg, if_false]
  · rfl

/-- A blur leaves nothing known inside its range. -/
theorem Memory.read_blur_inside (free : Nat → Nat → α) (m : Memory α) {lo hi a : Nat} (gen : Nat)
    (h : lo ≤ a ∧ a < hi) : (m.blur lo hi gen).read free a = free gen a := by
  have hlt : lo < hi := by omega
  have hf := cellsFind_filter m.cells (fun c => decide (c < lo ∨ hi ≤ c)) a
  have hno : ¬ (a < lo ∨ hi ≤ a) := by omega
  simp only [decide_eq_false hno] at hf
  simp only [Memory.blur, hlt, if_true, Memory.read, Memory.find, hf, blurGen, h, and_self]
  simp

/-- A blur of ranges leaves the other cells as they were. -/
theorem Memory.read_blurEach_outside (free : Nat → Nat → α) (m : Memory α) {a : Nat} (gen : Nat)
    {l : List (Nat × Nat)} (h : ∀ r ∈ l, a < r.1 ∨ r.2 ≤ a) :
    (m.blurEach gen l).read free a = m.read free a := by
  induction l with
  | nil => rfl
  | cons b rest ih =>
    rw [Memory.blurEach, Memory.read_blur_outside _ _ _ (h b (by simp)),
      ih (fun r hr => h r (by simp [hr]))]

/-- A blur of ranges leaves nothing known in them. -/
theorem Memory.read_blurEach_inside (free : Nat → Nat → α) (m : Memory α) {a : Nat} (gen : Nat)
    {l : List (Nat × Nat)} (h : ∃ r ∈ l, r.1 ≤ a ∧ a < r.2) :
    (m.blurEach gen l).read free a = free gen a := by
  induction l with
  | nil => simp at h
  | cons b rest ih =>
    by_cases hb : b.1 ≤ a ∧ a < b.2
    · exact Memory.read_blur_inside _ _ _ hb
    · obtain ⟨r, hr, ha⟩ := h
      rw [Memory.blurEach, Memory.read_blur_outside _ _ _ (by omega)]
      rcases List.mem_cons.mp hr with rfl | hr
      · exact absurd ha hb
      · exact ih ⟨r, hr, ha⟩

/-- Outside single cells is: at another address. -/
theorem outside_singleCells {l : List Nat} {a : Nat} (h : a ∉ l) :
    ∀ r ∈ singleCells l, a < r.1 ∨ r.2 ≤ a := by
  intro r hr
  obtain ⟨b, hb, rfl⟩ := List.mem_map.mp hr
  have : a ≠ b := fun e => h (e ▸ hb)
  dsimp only
  omega

/-! ### The canonical form -/

theorem cellsRiseFrom_mono {lo lo' : Nat} (h : lo ≤ lo') {l : List (Nat × α)}
    (hl : cellsRiseFrom lo' l = true) : cellsRiseFrom lo l = true := by
  cases l with
  | nil => rfl
  | cons c rest =>
    obtain ⟨b, w⟩ := c
    simp [cellsRiseFrom] at hl ⊢
    exact ⟨by omega, hl.2⟩

theorem cellsRiseFrom_put (l : List (Nat × α)) (lo a : Nat) (v : α) (ha : lo ≤ a)
    (hl : cellsRiseFrom lo l = true) : cellsRiseFrom lo (cellsPut l a v) = true := by
  induction l generalizing lo with
  | nil => simp [cellsPut, cellsRiseFrom, ha]
  | cons c rest ih =>
    obtain ⟨b, w⟩ := c
    simp [cellsRiseFrom] at hl
    simp only [cellsPut]
    split
    · simp [cellsRiseFrom, ha, hl.2]; omega
    · split
      · next h => subst h; simp [cellsRiseFrom, hl]
      · simp [cellsRiseFrom, hl.1]
        exact ih (b + 1) (by omega) hl.2

theorem cellsRiseFrom_filter (l : List (Nat × α)) (lo : Nat) (p : Nat × α → Bool)
    (hl : cellsRiseFrom lo l = true) : cellsRiseFrom lo (l.filter p) = true := by
  induction l generalizing lo with
  | nil => rfl
  | cons c rest ih =>
    obtain ⟨b, w⟩ := c
    simp [cellsRiseFrom] at hl
    by_cases h : p (b, w)
    · simp [h, cellsRiseFrom, hl.1, ih _ hl.2]
    · simp [h]; exact ih _ (cellsRiseFrom_mono (by omega) hl.2)

theorem cellsRiseFrom_filter_ge (l : List (Nat × α)) (lo n : Nat) (hl : cellsRiseFrom lo l = true) :
    cellsRiseFrom n (l.filter (fun c => decide (n ≤ c.1))) = true := by
  induction l generalizing lo with
  | nil => rfl
  | cons c rest ih =>
    obtain ⟨b, w⟩ := c
    simp [cellsRiseFrom] at hl
    by_cases h : n ≤ b
    · have := cellsRiseFrom_filter rest (b + 1) (fun c => decide (n ≤ c.1)) hl.2
      simp [h, cellsRiseFrom, this]
    · simp [h]; exact ih _ hl.2

theorem cellsRiseFrom_fill_append (f : Nat → α) (n k : Nat) (m : List (Nat × α))
    (hm : cellsRiseFrom (k + n) m = true) : cellsRiseFrom k (fillCells f k n ++ m) = true := by
  induction n generalizing k with
  | zero => simpa [fillCells] using hm
  | succ n ih =>
    simp only [fillCells, List.cons_append, cellsRiseFrom, Bool.and_eq_true, decide_eq_true_eq]
    exact ⟨Nat.le_refl k, ih (k + 1) (by simpa [Nat.add_assoc, Nat.add_comm 1] using hm)⟩

theorem Memory.wf_empty : (Memory.empty : Memory α).wf = true := rfl

theorem Memory.wf_write (m : Memory α) (a : Nat) (v : α) (h : m.wf = true) : (m.write a v).wf = true :=
  cellsRiseFrom_put m.cells 0 a v (Nat.zero_le a) h

theorem Memory.wf_fill (m : Memory α) (n : Nat) (f : Nat → α) (h : m.wf = true) : (m.fill n f).wf = true :=
  cellsRiseFrom_fill_append f n 0 _ (by simpa using cellsRiseFrom_filter_ge m.cells 0 n h)

theorem Memory.wf_blur (m : Memory α) (lo hi gen : Nat) (h : m.wf = true) :
    (m.blur lo hi gen).wf = true := by
  unfold Memory.blur
  split
  · exact cellsRiseFrom_filter _ _ _ h
  · exact h

theorem Memory.wf_blurEach (m : Memory α) (gen : Nat) (l : List (Nat × Nat)) (h : m.wf = true) :
    (m.blurEach gen l).wf = true := by
  induction l with
  | nil => exact h
  | cons b rest ih => exact Memory.wf_blur _ _ _ _ ih

end Sys2Proof.Machine
end

