-- ==== Sys2Proof/Laws/State.lean ====
section
/-! SUPPORT. One lemma per field and named update of State: what the update writes, and that it writes
nothing else. -/

namespace Sys2Proof.Machine

variable (s : State)

/-! ### setOvf -/

@[simp] theorem setOvf_busy : (setOvf s).busy = s.busy := rfl
@[simp] theorem setOvf_ovf : (setOvf s).ovf = true := rfl
@[simp] theorem setOvf_vHuf : (setOvf s).vHuf = s.vHuf := rfl
@[simp] theorem setOvf_vSer : (setOvf s).vSer = s.vSer := rfl
@[simp] theorem setOvf_err : (setOvf s).err = s.err := rfl
@[simp] theorem setOvf_einfo : (setOvf s).einfo = s.einfo := rfl
@[simp] theorem setOvf_arg0 : (setOvf s).arg0 = s.arg0 := rfl
@[simp] theorem setOvf_arg1 : (setOvf s).arg1 = s.arg1 := rfl
@[simp] theorem setOvf_res0 : (setOvf s).res0 = s.res0 := rfl
@[simp] theorem setOvf_res1 : (setOvf s).res1 = s.res1 := rfl
@[simp] theorem setOvf_res2 : (setOvf s).res2 = s.res2 := rfl
@[simp] theorem setOvf_cfg : (setOvf s).cfg = s.cfg := rfl
@[simp] theorem setOvf_tbase : (setOvf s).tbase = s.tbase := rfl
@[simp] theorem setOvf_pkCap : (setOvf s).pkCap = s.pkCap := rfl
@[simp] theorem setOvf_pkLen : (setOvf s).pkLen = s.pkLen := rfl
@[simp] theorem setOvf_rawCap : (setOvf s).rawCap = s.rawCap := rfl
@[simp] theorem setOvf_nSym : (setOvf s).nSym = s.nSym := rfl
@[simp] theorem setOvf_ssLen : (setOvf s).ssLen = s.ssLen := rfl
@[simp] theorem setOvf_dptr : (setOvf s).dptr = s.dptr := rfl
@[simp] theorem setOvf_drem : (setOvf s).drem = s.drem := rfl
@[simp] theorem setOvf_wlen : (setOvf s).wlen = s.wlen := rfl
@[simp] theorem setOvf_rlen : (setOvf s).rlen = s.rlen := rfl
@[simp] theorem setOvf_wptr : (setOvf s).wptr = s.wptr := rfl
@[simp] theorem setOvf_wacc : (setOvf s).wacc = s.wacc := rfl
@[simp] theorem setOvf_wcnt : (setOvf s).wcnt = s.wcnt := rfl
@[simp] theorem setOvf_rpos : (setOvf s).rpos = s.rpos := rfl
@[simp] theorem setOvf_rbit : (setOvf s).rbit = s.rbit := rfl
@[simp] theorem setOvf_tp : (setOvf s).tp = s.tp := rfl
@[simp] theorem setOvf_root : (setOvf s).root = s.root := rfl
@[simp] theorem setOvf_nnode : (setOvf s).nnode = s.nnode := rfl
@[simp] theorem setOvf_nleaf : (setOvf s).nleaf = s.nleaf := rfl
@[simp] theorem setOvf_tlen : (setOvf s).tlen = s.tlen := rfl
@[simp] theorem setOvf_nfix : (setOvf s).nfix = s.nfix := rfl
@[simp] theorem setOvf_pk : (setOvf s).pk = s.pk := rfl
@[simp] theorem setOvf_raw : (setOvf s).raw = s.raw := rfl
@[simp] theorem setOvf_ss : (setOvf s).ss = s.ss := rfl
@[simp] theorem setOvf_stLen : (setOvf s).stLen = s.stLen := rfl
@[simp] theorem setOvf_stData : (setOvf s).stData = s.stData := rfl
@[simp] theorem setOvf_freq : (setOvf s).freq = s.freq := rfl
@[simp] theorem setOvf_node : (setOvf s).node = s.node := rfl
@[simp] theorem setOvf_sfx : (setOvf s).sfx = s.sfx := rfl
@[simp] theorem setOvf_soff : (setOvf s).soff = s.soff := rfl
@[simp] theorem setOvf_code : (setOvf s).code = s.code := rfl
@[simp] theorem setOvf_fix : (setOvf s).fix = s.fix := rfl
@[simp] theorem setOvf_walk : (setOvf s).walk = s.walk := rfl
@[simp] theorem setOvf_script : (setOvf s).script = s.script := rfl
@[simp] theorem setOvf_hostRead : (setOvf s).hostRead = s.hostRead := rfl
@[simp] theorem setOvf_freeCtr : (setOvf s).freeCtr = s.freeCtr := rfl
@[simp] theorem setOvf_tie : (setOvf s).tie = s.tie := rfl

/-! ### clearTable -/

@[simp] theorem clearTable_busy : (clearTable s).busy = s.busy := rfl
@[simp] theorem clearTable_ovf : (clearTable s).ovf = s.ovf := rfl
@[simp] theorem clearTable_vHuf : (clearTable s).vHuf = s.vHuf := rfl
@[simp] theorem clearTable_vSer : (clearTable s).vSer = false := rfl
@[simp] theorem clearTable_err : (clearTable s).err = s.err := rfl
@[simp] theorem clearTable_einfo : (clearTable s).einfo = s.einfo := rfl
@[simp] theorem clearTable_arg0 : (clearTable s).arg0 = s.arg0 := rfl
@[simp] theorem clearTable_arg1 : (clearTable s).arg1 = s.arg1 := rfl
@[simp] theorem clearTable_res0 : (clearTable s).res0 = s.res0 := rfl
@[simp] theorem clearTable_res1 : (clearTable s).res1 = s.res1 := rfl
@[simp] theorem clearTable_res2 : (clearTable s).res2 = s.res2 := rfl
@[simp] theorem clearTable_cfg : (clearTable s).cfg = s.cfg := rfl
@[simp] theorem clearTable_tbase : (clearTable s).tbase = s.tbase := rfl
@[simp] theorem clearTable_pkCap : (clearTable s).pkCap = s.pkCap := rfl
@[simp] theorem clearTable_pkLen : (clearTable s).pkLen = s.pkLen := rfl
@[simp] theorem clearTable_rawCap : (clearTable s).rawCap = s.rawCap := rfl
@[simp] theorem clearTable_nSym : (clearTable s).nSym = s.nSym := rfl
@[simp] theorem clearTable_ssLen : (clearTable s).ssLen = s.ssLen := rfl
@[simp] theorem clearTable_dptr : (clearTable s).dptr = s.dptr := rfl
@[simp] theorem clearTable_drem : (clearTable s).drem = s.drem := rfl
@[simp] theorem clearTable_wlen : (clearTable s).wlen = s.wlen := rfl
@[simp] theorem clearTable_rlen : (clearTable s).rlen = s.rlen := rfl
@[simp] theorem clearTable_wptr : (clearTable s).wptr = s.wptr := rfl
@[simp] theorem clearTable_wacc : (clearTable s).wacc = s.wacc := rfl
@[simp] theorem clearTable_wcnt : (clearTable s).wcnt = s.wcnt := rfl
@[simp] theorem clearTable_rpos : (clearTable s).rpos = s.rpos := rfl
@[simp] theorem clearTable_rbit : (clearTable s).rbit = s.rbit := rfl
@[simp] theorem clearTable_tp : (clearTable s).tp = s.tp := rfl
@[simp] theorem clearTable_root : (clearTable s).root = s.root := rfl
@[simp] theorem clearTable_nnode : (clearTable s).nnode = s.nnode := rfl
@[simp] theorem clearTable_nleaf : (clearTable s).nleaf = s.nleaf := rfl
@[simp] theorem clearTable_tlen : (clearTable s).tlen = s.tlen := rfl
@[simp] theorem clearTable_nfix : (clearTable s).nfix = s.nfix := rfl
@[simp] theorem clearTable_pk : (clearTable s).pk = s.pk := rfl
@[simp] theorem clearTable_raw : (clearTable s).raw = s.raw := rfl
@[simp] theorem clearTable_ss : (clearTable s).ss = s.ss := rfl
@[simp] theorem clearTable_stLen : (clearTable s).stLen = s.stLen := rfl
@[simp] theorem clearTable_stData : (clearTable s).stData = s.stData := rfl
@[simp] theorem clearTable_freq : (clearTable s).freq = s.freq := rfl
@[simp] theorem clearTable_node : (clearTable s).node = s.node := rfl
@[simp] theorem clearTable_sfx : (clearTable s).sfx = s.sfx := rfl
@[simp] theorem clearTable_soff : (clearTable s).soff = s.soff := rfl
@[simp] theorem clearTable_code : (clearTable s).code = s.code := rfl
@[simp] theorem clearTable_fix : (clearTable s).fix = s.fix := rfl
@[simp] theorem clearTable_walk : (clearTable s).walk = s.walk := rfl
@[simp] theorem clearTable_script : (clearTable s).script = s.script := rfl
@[simp] theorem clearTable_hostRead : (clearTable s).hostRead = s.hostRead := rfl
@[simp] theorem clearTable_freeCtr : (clearTable s).freeCtr = s.freeCtr := rfl
@[simp] theorem clearTable_tie : (clearTable s).tie = s.tie := rfl

/-! ### clearTree -/

@[simp] theorem clearTree_busy : (clearTree s).busy = s.busy := rfl
@[simp] theorem clearTree_ovf : (clearTree s).ovf = s.ovf := rfl
@[simp] theorem clearTree_vHuf : (clearTree s).vHuf = false := rfl
@[simp] theorem clearTree_vSer : (clearTree s).vSer = false := rfl
@[simp] theorem clearTree_err : (clearTree s).err = s.err := rfl
@[simp] theorem clearTree_einfo : (clearTree s).einfo = s.einfo := rfl
@[simp] theorem clearTree_arg0 : (clearTree s).arg0 = s.arg0 := rfl
@[simp] theorem clearTree_arg1 : (clearTree s).arg1 = s.arg1 := rfl
@[simp] theorem clearTree_res0 : (clearTree s).res0 = s.res0 := rfl
@[simp] theorem clearTree_res1 : (clearTree s).res1 = s.res1 := rfl
@[simp] theorem clearTree_res2 : (clearTree s).res2 = s.res2 := rfl
@[simp] theorem clearTree_cfg : (clearTree s).cfg = s.cfg := rfl
@[simp] theorem clearTree_tbase : (clearTree s).tbase = s.tbase := rfl
@[simp] theorem clearTree_pkCap : (clearTree s).pkCap = s.pkCap := rfl
@[simp] theorem clearTree_pkLen : (clearTree s).pkLen = s.pkLen := rfl
@[simp] theorem clearTree_rawCap : (clearTree s).rawCap = s.rawCap := rfl
@[simp] theorem clearTree_nSym : (clearTree s).nSym = s.nSym := rfl
@[simp] theorem clearTree_ssLen : (clearTree s).ssLen = s.ssLen := rfl
@[simp] theorem clearTree_dptr : (clearTree s).dptr = s.dptr := rfl
@[simp] theorem clearTree_drem : (clearTree s).drem = s.drem := rfl
@[simp] theorem clearTree_wlen : (clearTree s).wlen = s.wlen := rfl
@[simp] theorem clearTree_rlen : (clearTree s).rlen = s.rlen := rfl
@[simp] theorem clearTree_wptr : (clearTree s).wptr = s.wptr := rfl
@[simp] theorem clearTree_wacc : (clearTree s).wacc = s.wacc := rfl
@[simp] theorem clearTree_wcnt : (clearTree s).wcnt = s.wcnt := rfl
@[simp] theorem clearTree_rpos : (clearTree s).rpos = s.rpos := rfl
@[simp] theorem clearTree_rbit : (clearTree s).rbit = s.rbit := rfl
@[simp] theorem clearTree_tp : (clearTree s).tp = s.tp := rfl
@[simp] theorem clearTree_root : (clearTree s).root = s.root := rfl
@[simp] theorem clearTree_nnode : (clearTree s).nnode = s.nnode := rfl
@[simp] theorem clearTree_nleaf : (clearTree s).nleaf = s.nleaf := rfl
@[simp] theorem clearTree_tlen : (clearTree s).tlen = s.tlen := rfl
@[simp] theorem clearTree_nfix : (clearTree s).nfix = s.nfix := rfl
@[simp] theorem clearTree_pk : (clearTree s).pk = s.pk := rfl
@[simp] theorem clearTree_raw : (clearTree s).raw = s.raw := rfl
@[simp] theorem clearTree_ss : (clearTree s).ss = s.ss := rfl
@[simp] theorem clearTree_stLen : (clearTree s).stLen = s.stLen := rfl
@[simp] theorem clearTree_stData : (clearTree s).stData = s.stData := rfl
@[simp] theorem clearTree_freq : (clearTree s).freq = s.freq := rfl
@[simp] theorem clearTree_node : (clearTree s).node = s.node := rfl
@[simp] theorem clearTree_sfx : (clearTree s).sfx = s.sfx := rfl
@[simp] theorem clearTree_soff : (clearTree s).soff = s.soff := rfl
@[simp] theorem clearTree_code : (clearTree s).code = s.code := rfl
@[simp] theorem clearTree_fix : (clearTree s).fix = s.fix := rfl
@[simp] theorem clearTree_walk : (clearTree s).walk = s.walk := rfl
@[simp] theorem clearTree_script : (clearTree s).script = s.script := rfl
@[simp] theorem clearTree_hostRead : (clearTree s).hostRead = s.hostRead := rfl
@[simp] theorem clearTree_freeCtr : (clearTree s).freeCtr = s.freeCtr := rfl
@[simp] theorem clearTree_tie : (clearTree s).tie = s.tie := rfl

/-! ### acknowledge -/

@[simp] theorem acknowledge_busy : (acknowledge s).busy = s.busy := rfl
@[simp] theorem acknowledge_ovf : (acknowledge s).ovf = false := rfl
@[simp] theorem acknowledge_vHuf : (acknowledge s).vHuf = s.vHuf := rfl
@[simp] theorem acknowledge_vSer : (acknowledge s).vSer = s.vSer := rfl
@[simp] theorem acknowledge_err : (acknowledge s).err = 0 := rfl
@[simp] theorem acknowledge_einfo : (acknowledge s).einfo = s.einfo := rfl
@[simp] theorem acknowledge_arg0 : (acknowledge s).arg0 = s.arg0 := rfl
@[simp] theorem acknowledge_arg1 : (acknowledge s).arg1 = s.arg1 := rfl
@[simp] theorem acknowledge_res0 : (acknowledge s).res0 = s.res0 := rfl
@[simp] theorem acknowledge_res1 : (acknowledge s).res1 = s.res1 := rfl
@[simp] theorem acknowledge_res2 : (acknowledge s).res2 = s.res2 := rfl
@[simp] theorem acknowledge_cfg : (acknowledge s).cfg = s.cfg := rfl
@[simp] theorem acknowledge_tbase : (acknowledge s).tbase = s.tbase := rfl
@[simp] theorem acknowledge_pkCap : (acknowledge s).pkCap = s.pkCap := rfl
@[simp] theorem acknowledge_pkLen : (acknowledge s).pkLen = s.pkLen := rfl
@[simp] theorem acknowledge_rawCap : (acknowledge s).rawCap = s.rawCap := rfl
@[simp] theorem acknowledge_nSym : (acknowledge s).nSym = s.nSym := rfl
@[simp] theorem acknowledge_ssLen : (acknowledge s).ssLen = s.ssLen := rfl
@[simp] theorem acknowledge_dptr : (acknowledge s).dptr = s.dptr := rfl
@[simp] theorem acknowledge_drem : (acknowledge s).drem = s.drem := rfl
@[simp] theorem acknowledge_wlen : (acknowledge s).wlen = s.wlen := rfl
@[simp] theorem acknowledge_rlen : (acknowledge s).rlen = s.rlen := rfl
@[simp] theorem acknowledge_wptr : (acknowledge s).wptr = s.wptr := rfl
@[simp] theorem acknowledge_wacc : (acknowledge s).wacc = s.wacc := rfl
@[simp] theorem acknowledge_wcnt : (acknowledge s).wcnt = s.wcnt := rfl
@[simp] theorem acknowledge_rpos : (acknowledge s).rpos = s.rpos := rfl
@[simp] theorem acknowledge_rbit : (acknowledge s).rbit = s.rbit := rfl
@[simp] theorem acknowledge_tp : (acknowledge s).tp = s.tp := rfl
@[simp] theorem acknowledge_root : (acknowledge s).root = s.root := rfl
@[simp] theorem acknowledge_nnode : (acknowledge s).nnode = s.nnode := rfl
@[simp] theorem acknowledge_nleaf : (acknowledge s).nleaf = s.nleaf := rfl
@[simp] theorem acknowledge_tlen : (acknowledge s).tlen = s.tlen := rfl
@[simp] theorem acknowledge_nfix : (acknowledge s).nfix = s.nfix := rfl
@[simp] theorem acknowledge_pk : (acknowledge s).pk = s.pk := rfl
@[simp] theorem acknowledge_raw : (acknowledge s).raw = s.raw := rfl
@[simp] theorem acknowledge_ss : (acknowledge s).ss = s.ss := rfl
@[simp] theorem acknowledge_stLen : (acknowledge s).stLen = s.stLen := rfl
@[simp] theorem acknowledge_stData : (acknowledge s).stData = s.stData := rfl
@[simp] theorem acknowledge_freq : (acknowledge s).freq = s.freq := rfl
@[simp] theorem acknowledge_node : (acknowledge s).node = s.node := rfl
@[simp] theorem acknowledge_sfx : (acknowledge s).sfx = s.sfx := rfl
@[simp] theorem acknowledge_soff : (acknowledge s).soff = s.soff := rfl
@[simp] theorem acknowledge_code : (acknowledge s).code = s.code := rfl
@[simp] theorem acknowledge_fix : (acknowledge s).fix = s.fix := rfl
@[simp] theorem acknowledge_walk : (acknowledge s).walk = s.walk := rfl
@[simp] theorem acknowledge_script : (acknowledge s).script = s.script := rfl
@[simp] theorem acknowledge_hostRead : (acknowledge s).hostRead = s.hostRead := rfl
@[simp] theorem acknowledge_freeCtr : (acknowledge s).freeCtr = s.freeCtr := rfl
@[simp] theorem acknowledge_tie : (acknowledge s).tie = s.tie := rfl

/-! ### takeFault -/

@[simp] theorem takeFault_busy (c : Cause) : (takeFault c s).busy = false := rfl
@[simp] theorem takeFault_ovf (c : Cause) : (takeFault c s).ovf = s.ovf := rfl
@[simp] theorem takeFault_vHuf (c : Cause) : (takeFault c s).vHuf = s.vHuf := rfl
@[simp] theorem takeFault_vSer (c : Cause) : (takeFault c s).vSer = s.vSer := rfl
@[simp] theorem takeFault_err (c : Cause) : (takeFault c s).err = c.code := rfl
@[simp] theorem takeFault_einfo (c : Cause) : (takeFault c s).einfo = BitVec.ofNat 32 c.info := rfl
@[simp] theorem takeFault_arg0 (c : Cause) : (takeFault c s).arg0 = s.arg0 := rfl
@[simp] theorem takeFault_arg1 (c : Cause) : (takeFault c s).arg1 = s.arg1 := rfl
@[simp] theorem takeFault_res0 (c : Cause) : (takeFault c s).res0 = s.res0 := rfl
@[simp] theorem takeFault_res1 (c : Cause) : (takeFault c s).res1 = s.res1 := rfl
@[simp] theorem takeFault_res2 (c : Cause) : (takeFault c s).res2 = s.res2 := rfl
@[simp] theorem takeFault_cfg (c : Cause) : (takeFault c s).cfg = s.cfg := rfl
@[simp] theorem takeFault_tbase (c : Cause) : (takeFault c s).tbase = s.tbase := rfl
@[simp] theorem takeFault_pkCap (c : Cause) : (takeFault c s).pkCap = s.pkCap := rfl
@[simp] theorem takeFault_pkLen (c : Cause) : (takeFault c s).pkLen = s.pkLen := rfl
@[simp] theorem takeFault_rawCap (c : Cause) : (takeFault c s).rawCap = s.rawCap := rfl
@[simp] theorem takeFault_nSym (c : Cause) : (takeFault c s).nSym = s.nSym := rfl
@[simp] theorem takeFault_ssLen (c : Cause) : (takeFault c s).ssLen = s.ssLen := rfl
@[simp] theorem takeFault_dptr (c : Cause) : (takeFault c s).dptr = s.dptr := rfl
@[simp] theorem takeFault_drem (c : Cause) : (takeFault c s).drem = s.drem := rfl
@[simp] theorem takeFault_wlen (c : Cause) : (takeFault c s).wlen = s.wlen := rfl
@[simp] theorem takeFault_rlen (c : Cause) : (takeFault c s).rlen = s.rlen := rfl
@[simp] theorem takeFault_wptr (c : Cause) : (takeFault c s).wptr = s.wptr := rfl
@[simp] theorem takeFault_wacc (c : Cause) : (takeFault c s).wacc = s.wacc := rfl
@[simp] theorem takeFault_wcnt (c : Cause) : (takeFault c s).wcnt = s.wcnt := rfl
@[simp] theorem takeFault_rpos (c : Cause) : (takeFault c s).rpos = s.rpos := rfl
@[simp] theorem takeFault_rbit (c : Cause) : (takeFault c s).rbit = s.rbit := rfl
@[simp] theorem takeFault_tp (c : Cause) : (takeFault c s).tp = s.tp := rfl
@[simp] theorem takeFault_root (c : Cause) : (takeFault c s).root = s.root := rfl
@[simp] theorem takeFault_nnode (c : Cause) : (takeFault c s).nnode = s.nnode := rfl
@[simp] theorem takeFault_nleaf (c : Cause) : (takeFault c s).nleaf = s.nleaf := rfl
@[simp] theorem takeFault_tlen (c : Cause) : (takeFault c s).tlen = s.tlen := rfl
@[simp] theorem takeFault_nfix (c : Cause) : (takeFault c s).nfix = s.nfix := rfl
@[simp] theorem takeFault_pk (c : Cause) : (takeFault c s).pk = s.pk := rfl
@[simp] theorem takeFault_raw (c : Cause) : (takeFault c s).raw = s.raw := rfl
@[simp] theorem takeFault_ss (c : Cause) : (takeFault c s).ss = s.ss := rfl
@[simp] theorem takeFault_stLen (c : Cause) : (takeFault c s).stLen = s.stLen := rfl
@[simp] theorem takeFault_stData (c : Cause) : (takeFault c s).stData = s.stData := rfl
@[simp] theorem takeFault_freq (c : Cause) : (takeFault c s).freq = s.freq := rfl
@[simp] theorem takeFault_node (c : Cause) : (takeFault c s).node = s.node := rfl
@[simp] theorem takeFault_sfx (c : Cause) : (takeFault c s).sfx = s.sfx := rfl
@[simp] theorem takeFault_soff (c : Cause) : (takeFault c s).soff = s.soff := rfl
@[simp] theorem takeFault_code (c : Cause) : (takeFault c s).code = s.code := rfl
@[simp] theorem takeFault_fix (c : Cause) : (takeFault c s).fix = s.fix := rfl
@[simp] theorem takeFault_walk (c : Cause) : (takeFault c s).walk = Walk.none := rfl
@[simp] theorem takeFault_script (c : Cause) : (takeFault c s).script = s.script := rfl
@[simp] theorem takeFault_hostRead (c : Cause) : (takeFault c s).hostRead = s.hostRead := rfl
@[simp] theorem takeFault_freeCtr (c : Cause) : (takeFault c s).freeCtr = s.freeCtr + 1 := rfl
@[simp] theorem takeFault_tie (c : Cause) : (takeFault c s).tie = s.tie := rfl

/-! ### emitted -/

@[simp] theorem emitted_busy : (emitted s).busy = s.busy := rfl
@[simp] theorem emitted_ovf : (emitted s).ovf = s.ovf := rfl
@[simp] theorem emitted_vHuf : (emitted s).vHuf = s.vHuf := rfl
@[simp] theorem emitted_vSer : (emitted s).vSer = s.vSer := rfl
@[simp] theorem emitted_err : (emitted s).err = s.err := rfl
@[simp] theorem emitted_einfo : (emitted s).einfo = s.einfo := rfl
@[simp] theorem emitted_arg0 : (emitted s).arg0 = s.arg0 := rfl
@[simp] theorem emitted_arg1 : (emitted s).arg1 = s.arg1 := rfl
@[simp] theorem emitted_res0 : (emitted s).res0 = s.res0 := rfl
@[simp] theorem emitted_res1 : (emitted s).res1 = s.res1 := rfl
@[simp] theorem emitted_res2 : (emitted s).res2 = s.res2 := rfl
@[simp] theorem emitted_cfg : (emitted s).cfg = s.cfg := rfl
@[simp] theorem emitted_tbase : (emitted s).tbase = s.tbase := rfl
@[simp] theorem emitted_pkCap : (emitted s).pkCap = s.pkCap := rfl
@[simp] theorem emitted_pkLen : (emitted s).pkLen = s.pkLen := rfl
@[simp] theorem emitted_rawCap : (emitted s).rawCap = s.rawCap := rfl
@[simp] theorem emitted_nSym : (emitted s).nSym = s.nSym := rfl
@[simp] theorem emitted_ssLen : (emitted s).ssLen = s.ssLen := rfl
@[simp] theorem emitted_dptr : (emitted s).dptr = s.dptr + 1 := rfl
@[simp] theorem emitted_drem : (emitted s).drem = s.drem - 1 := rfl
@[simp] theorem emitted_wlen : (emitted s).wlen = s.wlen := rfl
@[simp] theorem emitted_rlen : (emitted s).rlen = s.rlen := rfl
@[simp] theorem emitted_wptr : (emitted s).wptr = s.wptr := rfl
@[simp] theorem emitted_wacc : (emitted s).wacc = s.wacc := rfl
@[simp] theorem emitted_wcnt : (emitted s).wcnt = s.wcnt := rfl
@[simp] theorem emitted_rpos : (emitted s).rpos = s.rpos := rfl
@[simp] theorem emitted_rbit : (emitted s).rbit = s.rbit := rfl
@[simp] theorem emitted_tp : (emitted s).tp = s.tp := rfl
@[simp] theorem emitted_root : (emitted s).root = s.root := rfl
@[simp] theorem emitted_nnode : (emitted s).nnode = s.nnode := rfl
@[simp] theorem emitted_nleaf : (emitted s).nleaf = s.nleaf := rfl
@[simp] theorem emitted_tlen : (emitted s).tlen = s.tlen := rfl
@[simp] theorem emitted_nfix : (emitted s).nfix = s.nfix := rfl
@[simp] theorem emitted_pk : (emitted s).pk = s.pk := rfl
@[simp] theorem emitted_raw : (emitted s).raw = s.raw := rfl
@[simp] theorem emitted_ss : (emitted s).ss = s.ss := rfl
@[simp] theorem emitted_stLen : (emitted s).stLen = s.stLen := rfl
@[simp] theorem emitted_stData : (emitted s).stData = s.stData := rfl
@[simp] theorem emitted_freq : (emitted s).freq = s.freq := rfl
@[simp] theorem emitted_node : (emitted s).node = s.node := rfl
@[simp] theorem emitted_sfx : (emitted s).sfx = s.sfx := rfl
@[simp] theorem emitted_soff : (emitted s).soff = s.soff := rfl
@[simp] theorem emitted_code : (emitted s).code = s.code := rfl
@[simp] theorem emitted_fix : (emitted s).fix = s.fix := rfl
@[simp] theorem emitted_walk : (emitted s).walk = { s.walk with count := s.walk.count + 1 } := rfl
@[simp] theorem emitted_script : (emitted s).script = s.script := rfl
@[simp] theorem emitted_hostRead : (emitted s).hostRead = s.hostRead := rfl
@[simp] theorem emitted_freeCtr : (emitted s).freeCtr = s.freeCtr := rfl
@[simp] theorem emitted_tie : (emitted s).tie = s.tie := rfl

/-! ### setTp -/

@[simp] theorem setTp_busy : (setTp s).busy = s.busy := rfl
@[simp] theorem setTp_ovf : (setTp s).ovf = s.ovf := rfl
@[simp] theorem setTp_vHuf : (setTp s).vHuf = s.vHuf := rfl
@[simp] theorem setTp_vSer : (setTp s).vSer = s.vSer := rfl
@[simp] theorem setTp_err : (setTp s).err = s.err := rfl
@[simp] theorem setTp_einfo : (setTp s).einfo = s.einfo := rfl
@[simp] theorem setTp_arg0 : (setTp s).arg0 = s.arg0 := rfl
@[simp] theorem setTp_arg1 : (setTp s).arg1 = s.arg1 := rfl
@[simp] theorem setTp_res0 : (setTp s).res0 = s.res0 := rfl
@[simp] theorem setTp_res1 : (setTp s).res1 = s.res1 := rfl
@[simp] theorem setTp_res2 : (setTp s).res2 = s.res2 := rfl
@[simp] theorem setTp_cfg : (setTp s).cfg = s.cfg := rfl
@[simp] theorem setTp_tbase : (setTp s).tbase = s.tbase := rfl
@[simp] theorem setTp_pkCap : (setTp s).pkCap = s.pkCap := rfl
@[simp] theorem setTp_pkLen : (setTp s).pkLen = s.pkLen := rfl
@[simp] theorem setTp_rawCap : (setTp s).rawCap = s.rawCap := rfl
@[simp] theorem setTp_nSym : (setTp s).nSym = s.nSym := rfl
@[simp] theorem setTp_ssLen : (setTp s).ssLen = s.ssLen := rfl
@[simp] theorem setTp_dptr : (setTp s).dptr = s.dptr := rfl
@[simp] theorem setTp_drem : (setTp s).drem = s.drem := rfl
@[simp] theorem setTp_wlen : (setTp s).wlen = s.wlen := rfl
@[simp] theorem setTp_rlen : (setTp s).rlen = s.rlen := rfl
@[simp] theorem setTp_wptr : (setTp s).wptr = s.wptr := rfl
@[simp] theorem setTp_wacc : (setTp s).wacc = s.wacc := rfl
@[simp] theorem setTp_wcnt : (setTp s).wcnt = s.wcnt := rfl
@[simp] theorem setTp_rpos : (setTp s).rpos = s.rpos := rfl
@[simp] theorem setTp_rbit : (setTp s).rbit = s.rbit := rfl
@[simp] theorem setTp_tp : (setTp s).tp = BitVec.ofNat 32 s.walk.pos := rfl
@[simp] theorem setTp_root : (setTp s).root = s.root := rfl
@[simp] theorem setTp_nnode : (setTp s).nnode = s.nnode := rfl
@[simp] theorem setTp_nleaf : (setTp s).nleaf = s.nleaf := rfl
@[simp] theorem setTp_tlen : (setTp s).tlen = s.tlen := rfl
@[simp] theorem setTp_nfix : (setTp s).nfix = s.nfix := rfl
@[simp] theorem setTp_pk : (setTp s).pk = s.pk := rfl
@[simp] theorem setTp_raw : (setTp s).raw = s.raw := rfl
@[simp] theorem setTp_ss : (setTp s).ss = s.ss := rfl
@[simp] theorem setTp_stLen : (setTp s).stLen = s.stLen := rfl
@[simp] theorem setTp_stData : (setTp s).stData = s.stData := rfl
@[simp] theorem setTp_freq : (setTp s).freq = s.freq := rfl
@[simp] theorem setTp_node : (setTp s).node = s.node := rfl
@[simp] theorem setTp_sfx : (setTp s).sfx = s.sfx := rfl
@[simp] theorem setTp_soff : (setTp s).soff = s.soff := rfl
@[simp] theorem setTp_code : (setTp s).code = s.code := rfl
@[simp] theorem setTp_fix : (setTp s).fix = s.fix := rfl
@[simp] theorem setTp_walk : (setTp s).walk = s.walk := rfl
@[simp] theorem setTp_script : (setTp s).script = s.script := rfl
@[simp] theorem setTp_hostRead : (setTp s).hostRead = s.hostRead := rfl
@[simp] theorem setTp_freeCtr : (setTp s).freeCtr = s.freeCtr := rfl
@[simp] theorem setTp_tie : (setTp s).tie = s.tie := rfl

/-! ### endSymbol -/

@[simp] theorem endSymbol_busy : (endSymbol s).busy = s.busy := rfl
@[simp] theorem endSymbol_ovf : (endSymbol s).ovf = s.ovf := rfl
@[simp] theorem endSymbol_vHuf : (endSymbol s).vHuf = s.vHuf := rfl
@[simp] theorem endSymbol_vSer : (endSymbol s).vSer = s.vSer := rfl
@[simp] theorem endSymbol_err : (endSymbol s).err = s.err := rfl
@[simp] theorem endSymbol_einfo : (endSymbol s).einfo = s.einfo := rfl
@[simp] theorem endSymbol_arg0 : (endSymbol s).arg0 = s.arg0 := rfl
@[simp] theorem endSymbol_arg1 : (endSymbol s).arg1 = s.arg1 := rfl
@[simp] theorem endSymbol_res0 : (endSymbol s).res0 = s.res0 := rfl
@[simp] theorem endSymbol_res1 : (endSymbol s).res1 = s.res1 := rfl
@[simp] theorem endSymbol_res2 : (endSymbol s).res2 = s.res2 := rfl
@[simp] theorem endSymbol_cfg : (endSymbol s).cfg = s.cfg := rfl
@[simp] theorem endSymbol_tbase : (endSymbol s).tbase = s.tbase := rfl
@[simp] theorem endSymbol_pkCap : (endSymbol s).pkCap = s.pkCap := rfl
@[simp] theorem endSymbol_pkLen : (endSymbol s).pkLen = s.pkLen := rfl
@[simp] theorem endSymbol_rawCap : (endSymbol s).rawCap = s.rawCap := rfl
@[simp] theorem endSymbol_nSym : (endSymbol s).nSym = s.nSym := rfl
@[simp] theorem endSymbol_ssLen : (endSymbol s).ssLen = s.ssLen := rfl
@[simp] theorem endSymbol_dptr : (endSymbol s).dptr = s.dptr := rfl
@[simp] theorem endSymbol_drem : (endSymbol s).drem = s.drem := rfl
@[simp] theorem endSymbol_wlen : (endSymbol s).wlen = s.wlen := rfl
@[simp] theorem endSymbol_rlen : (endSymbol s).rlen = s.rlen := rfl
@[simp] theorem endSymbol_wptr : (endSymbol s).wptr = s.wptr := rfl
@[simp] theorem endSymbol_wacc : (endSymbol s).wacc = s.wacc := rfl
@[simp] theorem endSymbol_wcnt : (endSymbol s).wcnt = s.wcnt := rfl
@[simp] theorem endSymbol_rpos : (endSymbol s).rpos = s.rpos := rfl
@[simp] theorem endSymbol_rbit : (endSymbol s).rbit = s.rbit := rfl
@[simp] theorem endSymbol_tp : (endSymbol s).tp = s.tp := rfl
@[simp] theorem endSymbol_root : (endSymbol s).root = s.root := rfl
@[simp] theorem endSymbol_nnode : (endSymbol s).nnode = s.nnode := rfl
@[simp] theorem endSymbol_nleaf : (endSymbol s).nleaf = s.nleaf := rfl
@[simp] theorem endSymbol_tlen : (endSymbol s).tlen = s.tlen := rfl
@[simp] theorem endSymbol_nfix : (endSymbol s).nfix = s.nfix := rfl
@[simp] theorem endSymbol_pk : (endSymbol s).pk = s.pk := rfl
@[simp] theorem endSymbol_raw : (endSymbol s).raw = s.raw := rfl
@[simp] theorem endSymbol_ss : (endSymbol s).ss = s.ss := rfl
@[simp] theorem endSymbol_stLen : (endSymbol s).stLen = s.stLen := rfl
@[simp] theorem endSymbol_stData : (endSymbol s).stData = s.stData := rfl
@[simp] theorem endSymbol_freq : (endSymbol s).freq = s.freq := rfl
@[simp] theorem endSymbol_node : (endSymbol s).node = s.node := rfl
@[simp] theorem endSymbol_sfx : (endSymbol s).sfx = s.sfx := rfl
@[simp] theorem endSymbol_soff : (endSymbol s).soff = s.soff := rfl
@[simp] theorem endSymbol_code : (endSymbol s).code = s.code := rfl
@[simp] theorem endSymbol_fix : (endSymbol s).fix = s.fix := rfl
@[simp] theorem endSymbol_walk : (endSymbol s).walk = { s.walk with phase := .idle } := rfl
@[simp] theorem endSymbol_script : (endSymbol s).script = s.script := rfl
@[simp] theorem endSymbol_hostRead : (endSymbol s).hostRead = s.hostRead := rfl
@[simp] theorem endSymbol_freeCtr : (endSymbol s).freeCtr = s.freeCtr := rfl
@[simp] theorem endSymbol_tie : (endSymbol s).tie = s.tie := rfl

/-! ### endWalk -/

@[simp] theorem endWalk_busy : (endWalk s).busy = s.busy := rfl
@[simp] theorem endWalk_ovf : (endWalk s).ovf = s.ovf := rfl
@[simp] theorem endWalk_vHuf : (endWalk s).vHuf = s.vHuf := rfl
@[simp] theorem endWalk_vSer : (endWalk s).vSer = s.vSer := rfl
@[simp] theorem endWalk_err : (endWalk s).err = s.err := rfl
@[simp] theorem endWalk_einfo : (endWalk s).einfo = s.einfo := rfl
@[simp] theorem endWalk_arg0 : (endWalk s).arg0 = s.arg0 := rfl
@[simp] theorem endWalk_arg1 : (endWalk s).arg1 = s.arg1 := rfl
@[simp] theorem endWalk_res0 : (endWalk s).res0 = s.res0 := rfl
@[simp] theorem endWalk_res1 : (endWalk s).res1 = s.res1 := rfl
@[simp] theorem endWalk_res2 : (endWalk s).res2 = s.res2 := rfl
@[simp] theorem endWalk_cfg : (endWalk s).cfg = s.cfg := rfl
@[simp] theorem endWalk_tbase : (endWalk s).tbase = s.tbase := rfl
@[simp] theorem endWalk_pkCap : (endWalk s).pkCap = s.pkCap := rfl
@[simp] theorem endWalk_pkLen : (endWalk s).pkLen = s.pkLen := rfl
@[simp] theorem endWalk_rawCap : (endWalk s).rawCap = s.rawCap := rfl
@[simp] theorem endWalk_nSym : (endWalk s).nSym = s.nSym := rfl
@[simp] theorem endWalk_ssLen : (endWalk s).ssLen = s.ssLen := rfl
@[simp] theorem endWalk_dptr : (endWalk s).dptr = s.dptr := rfl
@[simp] theorem endWalk_drem : (endWalk s).drem = s.drem := rfl
@[simp] theorem endWalk_wlen : (endWalk s).wlen = s.wlen := rfl
@[simp] theorem endWalk_rlen : (endWalk s).rlen = s.rlen := rfl
@[simp] theorem endWalk_wptr : (endWalk s).wptr = s.wptr := rfl
@[simp] theorem endWalk_wacc : (endWalk s).wacc = s.wacc := rfl
@[simp] theorem endWalk_wcnt : (endWalk s).wcnt = s.wcnt := rfl
@[simp] theorem endWalk_rpos : (endWalk s).rpos = s.rpos := rfl
@[simp] theorem endWalk_rbit : (endWalk s).rbit = s.rbit := rfl
@[simp] theorem endWalk_tp : (endWalk s).tp = s.tp := rfl
@[simp] theorem endWalk_root : (endWalk s).root = s.root := rfl
@[simp] theorem endWalk_nnode : (endWalk s).nnode = s.nnode := rfl
@[simp] theorem endWalk_nleaf : (endWalk s).nleaf = s.nleaf := rfl
@[simp] theorem endWalk_tlen : (endWalk s).tlen = s.tlen := rfl
@[simp] theorem endWalk_nfix : (endWalk s).nfix = s.nfix := rfl
@[simp] theorem endWalk_pk : (endWalk s).pk = s.pk := rfl
@[simp] theorem endWalk_raw : (endWalk s).raw = s.raw := rfl
@[simp] theorem endWalk_ss : (endWalk s).ss = s.ss := rfl
@[simp] theorem endWalk_stLen : (endWalk s).stLen = s.stLen := rfl
@[simp] theorem endWalk_stData : (endWalk s).stData = s.stData := rfl
@[simp] theorem endWalk_freq : (endWalk s).freq = s.freq := rfl
@[simp] theorem endWalk_node : (endWalk s).node = s.node := rfl
@[simp] theorem endWalk_sfx : (endWalk s).sfx = s.sfx := rfl
@[simp] theorem endWalk_soff : (endWalk s).soff = s.soff := rfl
@[simp] theorem endWalk_code : (endWalk s).code = s.code := rfl
@[simp] theorem endWalk_fix : (endWalk s).fix = s.fix := rfl
@[simp] theorem endWalk_walk : (endWalk s).walk = Walk.none := rfl
@[simp] theorem endWalk_script : (endWalk s).script = s.script := rfl
@[simp] theorem endWalk_hostRead : (endWalk s).hostRead = s.hostRead := rfl
@[simp] theorem endWalk_freeCtr : (endWalk s).freeCtr = s.freeCtr := rfl
@[simp] theorem endWalk_tie : (endWalk s).tie = s.tie := rfl

/-! ### vliResult -/

@[simp] theorem vliResult_busy (v n : Nat) : (vliResult v n s).busy = s.busy := rfl
@[simp] theorem vliResult_ovf (v n : Nat) : (vliResult v n s).ovf = s.ovf := rfl
@[simp] theorem vliResult_vHuf (v n : Nat) : (vliResult v n s).vHuf = s.vHuf := rfl
@[simp] theorem vliResult_vSer (v n : Nat) : (vliResult v n s).vSer = s.vSer := rfl
@[simp] theorem vliResult_err (v n : Nat) : (vliResult v n s).err = s.err := rfl
@[simp] theorem vliResult_einfo (v n : Nat) : (vliResult v n s).einfo = s.einfo := rfl
@[simp] theorem vliResult_arg0 (v n : Nat) : (vliResult v n s).arg0 = s.arg0 := rfl
@[simp] theorem vliResult_arg1 (v n : Nat) : (vliResult v n s).arg1 = s.arg1 := rfl
@[simp] theorem vliResult_res0 (v n : Nat) : (vliResult v n s).res0 = BitVec.ofNat 32 v := rfl
@[simp] theorem vliResult_res1 (v n : Nat) : (vliResult v n s).res1 = BitVec.ofNat 32 n := rfl
@[simp] theorem vliResult_res2 (v n : Nat) : (vliResult v n s).res2 = s.res2 := rfl
@[simp] theorem vliResult_cfg (v n : Nat) : (vliResult v n s).cfg = s.cfg := rfl
@[simp] theorem vliResult_tbase (v n : Nat) : (vliResult v n s).tbase = s.tbase := rfl
@[simp] theorem vliResult_pkCap (v n : Nat) : (vliResult v n s).pkCap = s.pkCap := rfl
@[simp] theorem vliResult_pkLen (v n : Nat) : (vliResult v n s).pkLen = s.pkLen := rfl
@[simp] theorem vliResult_rawCap (v n : Nat) : (vliResult v n s).rawCap = s.rawCap := rfl
@[simp] theorem vliResult_nSym (v n : Nat) : (vliResult v n s).nSym = s.nSym := rfl
@[simp] theorem vliResult_ssLen (v n : Nat) : (vliResult v n s).ssLen = s.ssLen := rfl
@[simp] theorem vliResult_dptr (v n : Nat) : (vliResult v n s).dptr = s.dptr := rfl
@[simp] theorem vliResult_drem (v n : Nat) : (vliResult v n s).drem = s.drem := rfl
@[simp] theorem vliResult_wlen (v n : Nat) : (vliResult v n s).wlen = s.wlen := rfl
@[simp] theorem vliResult_rlen (v n : Nat) : (vliResult v n s).rlen = s.rlen := rfl
@[simp] theorem vliResult_wptr (v n : Nat) : (vliResult v n s).wptr = s.wptr := rfl
@[simp] theorem vliResult_wacc (v n : Nat) : (vliResult v n s).wacc = s.wacc := rfl
@[simp] theorem vliResult_wcnt (v n : Nat) : (vliResult v n s).wcnt = s.wcnt := rfl
@[simp] theorem vliResult_rpos (v n : Nat) : (vliResult v n s).rpos = s.rpos := rfl
@[simp] theorem vliResult_rbit (v n : Nat) : (vliResult v n s).rbit = s.rbit := rfl
@[simp] theorem vliResult_tp (v n : Nat) : (vliResult v n s).tp = s.tp := rfl
@[simp] theorem vliResult_root (v n : Nat) : (vliResult v n s).root = s.root := rfl
@[simp] theorem vliResult_nnode (v n : Nat) : (vliResult v n s).nnode = s.nnode := rfl
@[simp] theorem vliResult_nleaf (v n : Nat) : (vliResult v n s).nleaf = s.nleaf := rfl
@[simp] theorem vliResult_tlen (v n : Nat) : (vliResult v n s).tlen = s.tlen := rfl
@[simp] theorem vliResult_nfix (v n : Nat) : (vliResult v n s).nfix = s.nfix := rfl
@[simp] theorem vliResult_pk (v n : Nat) : (vliResult v n s).pk = s.pk := rfl
@[simp] theorem vliResult_raw (v n : Nat) : (vliResult v n s).raw = s.raw := rfl
@[simp] theorem vliResult_ss (v n : Nat) : (vliResult v n s).ss = s.ss := rfl
@[simp] theorem vliResult_stLen (v n : Nat) : (vliResult v n s).stLen = s.stLen := rfl
@[simp] theorem vliResult_stData (v n : Nat) : (vliResult v n s).stData = s.stData := rfl
@[simp] theorem vliResult_freq (v n : Nat) : (vliResult v n s).freq = s.freq := rfl
@[simp] theorem vliResult_node (v n : Nat) : (vliResult v n s).node = s.node := rfl
@[simp] theorem vliResult_sfx (v n : Nat) : (vliResult v n s).sfx = s.sfx := rfl
@[simp] theorem vliResult_soff (v n : Nat) : (vliResult v n s).soff = s.soff := rfl
@[simp] theorem vliResult_code (v n : Nat) : (vliResult v n s).code = s.code := rfl
@[simp] theorem vliResult_fix (v n : Nat) : (vliResult v n s).fix = s.fix := rfl
@[simp] theorem vliResult_walk (v n : Nat) : (vliResult v n s).walk = s.walk := rfl
@[simp] theorem vliResult_script (v n : Nat) : (vliResult v n s).script = s.script := rfl
@[simp] theorem vliResult_hostRead (v n : Nat) : (vliResult v n s).hostRead = s.hostRead := rfl
@[simp] theorem vliResult_freeCtr (v n : Nat) : (vliResult v n s).freeCtr = s.freeCtr := rfl
@[simp] theorem vliResult_tie (v n : Nat) : (vliResult v n s).tie = s.tie := rfl

end Sys2Proof.Machine
end

