-- ==== Sys2Proof/Laws/Ops.lean ====
section
/-! SUPPORT. For each shared operation, once, everything it can do. -/

namespace Sys2Proof.Machine

/-! ### Pieces of pseudocode -/

variable {α β : Type}

@[simp] theorem Res.bind_ok (a : α) (s : State) (k : α → State → Res β) :
    (Res.ok a s).bind k = k a s := rfl

@[simp] theorem Res.bind_raise (c : Cause) (s : State) (k : α → State → Res β) :
    (Res.raise c s).bind k = .raise c s := rfl

@[simp] theorem Res.bind_stop (f : Fault) (k : α → State → Res β) :
    (Res.stop f : Res α).bind k = .stop f := rfl

/-- A sequence ends normally when both pieces do. -/
theorem Res.bind_eq_ok {r : Res α} {k : α → State → Res β} {b : β} {t : State} :
    r.bind k = .ok b t ↔ ∃ a u, r = .ok a u ∧ k a u = .ok b t := by
  cases r <;> simp

/-- A sequence raises where its first raising piece does. -/
theorem Res.bind_eq_raise {r : Res α} {k : α → State → Res β} {c : Cause} {t : State} :
    r.bind k = .raise c t ↔ r = .raise c t ∨ ∃ a u, r = .ok a u ∧ k a u = .raise c t := by
  cases r <;> simp

/-- A sequence stops where its first stopping piece does. -/
theorem Res.bind_eq_stop {r : Res α} {k : α → State → Res β} {f : Fault} :
    r.bind k = .stop f ↔ r = .stop f ∨ ∃ a u, r = .ok a u ∧ k a u = .stop f := by
  cases r <;> simp

theorem Res.bind_assoc {γ : Type} (r : Res α) (k : α → State → Res β) (l : β → State → Res γ) :
    (r.bind k).bind l = r.bind (fun a u => (k a u).bind l) := by
  cases r <;> rfl

theorem Res.ofExcept_eq_ok {e : Except Cause α} {s t : State} {a : α} :
    Res.ofExcept e s = .ok a t ↔ e = .ok a ∧ s = t := by
  cases e <;> simp [Res.ofExcept]

theorem Res.ofExcept_eq_raise {e : Except Cause α} {s t : State} {c : Cause} :
    Res.ofExcept e s = .raise c t ↔ e = .error c ∧ s = t := by
  cases e <;> simp [Res.ofExcept]

theorem Res.ofExcept_ne_stop {e : Except Cause α} {s : State} {f : Fault} :
    Res.ofExcept e s ≠ .stop f := by
  cases e <;> simp [Res.ofExcept]

/-! ### The run of a command -/

variable {always : Bool} {spoil : State → State → State} {body : State → Res Unit} {s t : State}

theorem command_refused (h : s.accepts always = false) :
    command always spoil body s = .refused .commandRefused := by
  simp [command, h]

theorem command_completes (h : s.accepts always = true) (hb : body s = .ok () t) :
    command always spoil body s = .next t := by
  simp [command, h, hb]

theorem command_faults {c : Cause} (h : s.accepts always = true) (hb : body s = .raise c t) :
    command always spoil body s = .next (takeFault c (spoil s t)) := by
  simp [command, h, hb]

/-- Everything a command can answer as a next state: it was accepted, and completed or ended by a fault. -/
theorem command_next (h : command always spoil body s = .next t) :
    s.accepts always = true ∧
      (body s = .ok () t ∨ ∃ c u, body s = .raise c u ∧ t = takeFault c (spoil s u)) := by
  unfold command at h
  split at h
  · next ha =>
    refine ⟨ha, ?_⟩
    split at h
    · next hb => cases h; exact .inl hb
    · next c u hb => cases h; exact .inr ⟨c, u, hb, rfl⟩
    · cases h
  · cases h

/-! ### PK -/

/-- A byte read of PK answers the byte below PK_LEN and raises from there on; it changes nothing. -/
theorem pkRead_ok {a : Nat} {v : Byte} :
    pkRead a s = .ok v t ↔ a < s.pkLen.toNat ∧ v = s.pkByte a ∧ t = s := by
  unfold pkRead
  split
  · simp; omega
  · simp; constructor
    · rintro ⟨rfl, rfl⟩; exact ⟨by omega, rfl, rfl⟩
    · rintro ⟨_, rfl, rfl⟩; exact ⟨rfl, rfl⟩

theorem pkRead_raise {a : Nat} {c : Cause} :
    pkRead a s = .raise c t ↔ s.pkLen.toNat ≤ a ∧ c = .rangeFault (a % 2 ^ 32) ∧ t = s := by
  unfold pkRead
  split
  · simp only [Res.raise.injEq]; constructor
    · rintro ⟨rfl, rfl⟩; exact ⟨by omega, rfl, rfl⟩
    · rintro ⟨_, rfl, rfl⟩; exact ⟨rfl, rfl⟩
  · simp; omega

/-- A byte write of PK writes PK, OVF and WLEN, and nothing else. -/
theorem pkWrite_frame (a : Nat) (v : Byte) (s : State) :
    pkWrite a v s =
      { s with pk := (pkWrite a v s).pk, ovf := (pkWrite a v s).ovf, wlen := (pkWrite a v s).wlen } := by
  unfold pkWrite
  split <;> rfl

theorem pkWrite_pk (a : Nat) (v : Byte) (s : State) :
    (pkWrite a v s).pk = if a < s.pkCap.toNat then s.pk.write a v else s.pk := by
  unfold pkWrite
  split <;> rfl

theorem pkWrite_ovf (a : Nat) (v : Byte) (s : State) :
    (pkWrite a v s).ovf = if a < s.pkCap.toNat then s.ovf else true := by
  unfold pkWrite
  split <;> rfl

theorem pkWrite_wlen (a : Nat) (v : Byte) (s : State) :
    (pkWrite a v s).wlen = BitVec.ofNat 32 (max s.wlen.toNat (a + 1)) := by
  unfold pkWrite
  split <;> rfl

/-- An append goes through unless WPTR stands at its ceiling. -/
theorem wAppend_ok {v : Byte} {u : Unit} :
    wAppend v s = .ok u t ↔
      s.wptr ≠ 0xFFFFFFFF ∧ t = { pkWrite s.wptr.toNat v s with wptr := s.wptr + 1 } := by
  unfold wAppend
  split <;> simp_all [eq_comm]

theorem wAppend_raise {v : Byte} {c : Cause} :
    wAppend v s = .raise c t ↔ s.wptr = 0xFFFFFFFF ∧ c = .formatLimit s.wptr.toNat ∧ t = s := by
  unfold wAppend
  split <;> simp_all [eq_comm]

theorem wAppend_ne_stop {v : Byte} {f : Fault} : wAppend v s ≠ .stop f := by
  unfold wAppend
  split <;> simp

theorem appendAll_ne_stop (bs : List Byte) (s : State) {f : Fault} : appendAll bs s ≠ .stop f := by
  induction bs generalizing s with
  | nil => simp [appendAll]
  | cons v rest ih =>
    simp only [appendAll, ne_eq, Res.bind_eq_stop, not_or, not_exists, not_and]
    exact ⟨wAppend_ne_stop, fun _ u _ => ih u⟩

theorem appendAll_append (bs cs : List Byte) (s : State) :
    appendAll (bs ++ cs) s = (appendAll bs s).bind fun _ t => appendAll cs t := by
  induction bs generalizing s with
  | nil => rfl
  | cons v rest ih => simp [appendAll, Res.bind_assoc, ih]

/-- Appending writes PK, OVF, WLEN and WPTR, and nothing else. -/
theorem appendAll_frame (bs : List Byte) {s t : State} {u : Unit} (h : appendAll bs s = .ok u t) :
    t = { s with pk := t.pk, ovf := t.ovf, wlen := t.wlen, wptr := t.wptr } := by
  induction bs generalizing s with
  | nil => simp [appendAll] at h; subst h; rfl
  | cons v rest ih =>
    obtain ⟨_, w, hw, h'⟩ := Res.bind_eq_ok.mp h
    obtain ⟨_, rfl⟩ := wAppend_ok.mp hw
    have := ih h'
    rw [pkWrite_frame] at this
    rw [this]

/-! ### RAW -/

/-- Emission raises only a MalformedStream or a VerifyFail, never stops, and on success moves DPTR and
DREM by one. -/
theorem rawEmit_ok {v : Byte} {u : Unit} (h : rawEmit v s = .ok u t) :
    s.drem ≠ 0 ∧ t.dptr = s.dptr + 1 ∧ t.drem = s.drem - 1 ∧
      t = { s with
        dptr := s.dptr + 1
        drem := s.drem - 1
        walk := { s.walk with count := s.walk.count + 1 }
        raw := t.raw
        ovf := t.ovf
        rlen := t.rlen } := by
  unfold rawEmit at h
  split at h
  · cases h
  · next hd =>
    split at h
    · split at h
      · cases h
      · cases h; exact ⟨hd, rfl, rfl, rfl⟩
    · cases h
      refine ⟨hd, ?_, ?_, ?_⟩ <;> split <;> rfl

theorem rawEmit_ne_stop {v : Byte} {f : Fault} : rawEmit v s ≠ .stop f := by
  unfold rawEmit
  split
  · simp
  · split
    · split <;> simp
    · simp

end Sys2Proof.Machine
end

