-- ==== Sys2Proof/Laws/PerInstr.lean ====
section
/-! SUPPORT. Statements about every instruction, one lemma per constructor. -/

namespace Sys2Proof.Laws.FixedLength

/-- The fixed part of an instruction is as long as its layer's length rule says of its first byte: one
byte for a command (30_encoding R110), R92 for a node, R91 for a VLI. -/
def Statement (i : Instr) : Prop :=
  i.wellFormed = true →
    ∃ h rest, encode i = h :: rest ∧
      (encode i).length =
        match i.layer with
        | .command => 1
        | .node => nodeFixedLen h
        | .vli => vliFixedLen h

theorem nop : Statement .nop := fun _ => ⟨_, _, rfl, rfl⟩
theorem clr : Statement .clr := fun _ => ⟨_, _, rfl, rfl⟩
theorem rst : Statement .rst := fun _ => ⟨_, _, rfl, rfl⟩
theorem bwInit : Statement .bwInit := fun _ => ⟨_, _, rfl, rfl⟩
theorem bwPut : Statement .bwPut := fun _ => ⟨_, _, rfl, rfl⟩
theorem bwFlush : Statement .bwFlush := fun _ => ⟨_, _, rfl, rfl⟩
theorem brSeek : Statement .brSeek := fun _ => ⟨_, _, rfl, rfl⟩
theorem brRead : Statement .brRead := fun _ => ⟨_, _, rfl, rfl⟩
theorem vliEnc : Statement .vliEnc := fun _ => ⟨_, _, rfl, rfl⟩
theorem vliDec : Statement .vliDec := fun _ => ⟨_, _, rfl, rfl⟩
theorem hufBuild : Statement .hufBuild := fun _ => ⟨_, _, rfl, rfl⟩
theorem hufBits : Statement .hufBits := fun _ => ⟨_, _, rfl, rfl⟩
theorem sfxFind : Statement .sfxFind := fun _ => ⟨_, _, rfl, rfl⟩
theorem serSize : Statement .serSize := fun _ => ⟨_, _, rfl, rfl⟩
theorem serBuild : Statement .serBuild := fun _ => ⟨_, _, rfl, rfl⟩
theorem estSize : Statement .estSize := fun _ => ⟨_, _, rfl, rfl⟩
theorem encSym : Statement .encSym := fun _ => ⟨_, _, rfl, rfl⟩
theorem encBlock : Statement .encBlock := fun _ => ⟨_, _, rfl, rfl⟩
theorem decSym : Statement .decSym := fun _ => ⟨_, _, rfl, rfl⟩
theorem decBlock : Statement .decBlock := fun _ => ⟨_, _, rfl, rfl⟩
theorem leafB (data : Byte) : Statement (.leafB data) := fun _ => ⟨_, _, rfl, rfl⟩
theorem leafS (n : Byte) : Statement (.leafS n) := fun _ => ⟨_, _, rfl, rfl⟩
theorem leafX (n : Byte) : Statement (.leafX n) := fun _ => ⟨_, _, rfl, rfl⟩

theorem br (h : Byte) : Statement (.br h) := fun wf => by
  have hr : 3 ≤ h.toNat ∧ h.toNat ≤ 254 := of_decide_eq_true wf
  refine ⟨h, [], rfl, ?_⟩
  have h1 : ¬ h.toNat ≤ 2 := by omega
  have h2 : ¬ h = 255#8 := by rintro rfl; exact absurd hr.2 (by decide)
  simp [encode, Instr.layer, nodeFixedLen, h1, h2]

theorem brl (lo hi : Byte) : Statement (.brl lo hi) := fun _ => ⟨_, _, rfl, rfl⟩

theorem vliShort (b0 : Byte) : Statement (.vliShort b0) := fun wf => by
  have hr : b0.toNat ≤ 254 := of_decide_eq_true wf
  refine ⟨b0, [], rfl, ?_⟩
  have h2 : ¬ b0 = 255#8 := by rintro rfl; exact absurd hr (by decide)
  simp [encode, Instr.layer, vliFixedLen, h2]

theorem vliLong (lo hi : Byte) : Statement (.vliLong lo hi) := fun _ => ⟨_, _, rfl, rfl⟩

end Sys2Proof.Laws.FixedLength
end

