-- ==== Sys2Proof/Laws/Pieces.lean ====
section
/-! SUPPORT. For the pieces that commands and nodes are built from, once, what they write and which way they
can end: the bit writer and reader, the integer reader, the emission of bytes, the walk, the table builder,
the block coder. -/

namespace Sys2Proof.Machine

variable {s t : State} {u : Unit}

/-! ### The bit writer -/

/-- Putting a bit writes the writer's registers, PK and OVF, and nothing else. -/
theorem bitPut_frame {b : Bool} (h : bitPut b s = .ok u t) :
    t = { s with pk := t.pk, ovf := t.ovf, wlen := t.wlen, wptr := t.wptr, wacc := t.wacc, wcnt := t.wcnt } := by
  unfold bitPut at h
  dsimp only at h
  split at h
  · obtain ⟨_, w, hw, h⟩ := Res.bind_eq_ok.mp h
    obtain ⟨_, rfl⟩ := wAppend_ok.mp hw
    cases h
    rw [pkWrite_frame]
  · cases h; rfl

theorem bitPut_ne_stop {b : Bool} {f : Fault} : bitPut b s ≠ .stop f := by
  unfold bitPut
  dsimp only
  split
  · simp [Res.bind_eq_stop, wAppend_ne_stop]
  · simp

theorem putAll_append (bs cs : List Bool) (s : State) :
    putAll (bs ++ cs) s = (putAll bs s).bind fun _ t => putAll cs t := by
  induction bs generalizing s with
  | nil => rfl
  | cons b rest ih => simp [putAll, Res.bind_assoc, ih]

/-- Putting bits writes the writer's registers, PK and OVF, and nothing else. -/
theorem putAll_frame (bs : List Bool) (h : putAll bs s = .ok u t) :
    t = { s with pk := t.pk, ovf := t.ovf, wlen := t.wlen, wptr := t.wptr, wacc := t.wacc, wcnt := t.wcnt } := by
  induction bs generalizing s with
  | nil => simp [putAll] at h; subst h; rfl
  | cons b rest ih =>
    obtain ⟨_, w, hw, h'⟩ := Res.bind_eq_ok.mp h
    have hb := bitPut_frame hw
    have := ih h'
    rw [hb] at this
    rw [this]

theorem putAll_ne_stop (bs : List Bool) {f : Fault} : putAll bs s ≠ .stop f := by
  induction bs generalizing s with
  | nil => simp [putAll]
  | cons b rest ih =>
    simp only [putAll, ne_eq, Res.bind_eq_stop, not_or, not_exists, not_and]
    exact ⟨bitPut_ne_stop, fun _ _ _ => ih⟩

/-- A flush leaves the writer aligned and writes its registers, PK and OVF, and nothing else. -/
theorem flush_frame (h : flush s = .ok u t) :
    t.wcnt = 0 ∧
      t = { s with pk := t.pk, ovf := t.ovf, wlen := t.wlen, wptr := t.wptr, wacc := t.wacc, wcnt := 0 } := by
  unfold flush at h
  split at h
  · next ha =>
    cases h
    have : s.wcnt = 0 := by simpa [State.aligned] using ha
    exact ⟨this, by rw [← this]⟩
  · obtain ⟨_, w, hw, h⟩ := Res.bind_eq_ok.mp h
    obtain ⟨_, rfl⟩ := wAppend_ok.mp hw
    cases h
    exact ⟨rfl, by rw [pkWrite_frame]⟩

theorem flush_ne_stop {f : Fault} : flush s ≠ .stop f := by
  unfold flush
  split
  · simp
  · simp [Res.bind_eq_stop, wAppend_ne_stop]

/-! ### The bit reader -/

/-- Reading a bit moves RPOS and RBIT, and nothing else. -/
theorem bitRead_frame (s : State) :
    (bitRead s).2 = { s with rpos := (bitRead s).2.rpos, rbit := (bitRead s).2.rbit } := by
  unfold bitRead
  split
  · rfl
  · dsimp only; split <;> rfl

theorem skipBits_frame (n : Nat) (s : State) :
    skipBits n s = { s with rpos := (skipBits n s).rpos, rbit := (skipBits n s).rbit } := by
  induction n generalizing s with
  | zero => rfl
  | succ n ih =>
    obtain ⟨a, b, e⟩ : ∃ a b, (bitRead s).2 = { s with rpos := a, rbit := b } := ⟨_, _, bitRead_frame s⟩
    simp only [skipBits]
    rw [e]
    exact ih _

/-! ### Readers of bytes -/

/-- Reading bytes changes nothing. -/
theorem pkReadList_state {a n : Nat} {l : List Byte} (h : pkReadList a n s = .ok l t) : t = s := by
  induction n generalizing a l with
  | zero => simp [pkReadList] at h; exact h.2.symm
  | succ n ih =>
    obtain ⟨v, w, hw, h1⟩ := Res.bind_eq_ok.mp h
    obtain ⟨_, _, rfl⟩ := pkRead_ok.mp hw
    obtain ⟨vs, x, hx, h2⟩ := Res.bind_eq_ok.mp h1
    cases h2
    exact ih hx

/-- Reading an integer changes nothing. -/
theorem vliRead_state {a : Nat} {r : Nat × Nat} (h : vliRead a s = .ok r t) : t = s := by
  unfold vliRead at h
  obtain ⟨v, w, hw, h1⟩ := Res.bind_eq_ok.mp h
  obtain ⟨_, _, rfl⟩ := pkRead_ok.mp hw
  split at h1
  · obtain ⟨lo, x, hx, h2⟩ := Res.bind_eq_ok.mp h1
    obtain ⟨_, _, rfl⟩ := pkRead_ok.mp hx
    obtain ⟨hi, y, hy, h3⟩ := Res.bind_eq_ok.mp h2
    obtain ⟨_, _, rfl⟩ := pkRead_ok.mp hy
    cases h3; rfl
  · cases h1; rfl

/-! ### Emission -/

/-- Emitting bytes writes the RAW cursor, RAW, RLEN, OVF and the walk's count, and nothing else. -/
theorem emitBytes_frame {a n : Nat} (h : emitBytes a n s = .ok u t) :
    t = { s with dptr := t.dptr, drem := t.drem, raw := t.raw, ovf := t.ovf, rlen := t.rlen,
                 walk := { s.walk with count := t.walk.count } } := by
  induction n generalizing a s with
  | zero => simp [emitBytes] at h; subst h; rfl
  | succ n ih =>
    obtain ⟨v, w, hw, h1⟩ := Res.bind_eq_ok.mp h
    obtain ⟨_, _, rfl⟩ := pkRead_ok.mp hw
    obtain ⟨_, x, hx, h2⟩ := Res.bind_eq_ok.mp h1
    have he := (rawEmit_ok hx).2.2.2
    have := ih h2
    rw [he] at this
    rw [this]

theorem emitBytes_ne_stop {a n : Nat} {f : Fault} : emitBytes a n s ≠ .stop f := by
  induction n generalizing a s with
  | zero => simp [emitBytes]
  | succ n ih =>
    simp only [emitBytes, ne_eq, Res.bind_eq_stop, not_or, not_exists, not_and]
    refine ⟨by unfold pkRead; split <;> simp, fun _ _ _ => ⟨rawEmit_ne_stop, fun _ _ _ => ih⟩⟩

/-- A branch writes the reader's registers and the walk's phase and position, and nothing else. -/
theorem branch_frame {l r : Nat} (h : branch l r s = .ok u t) :
    t.walk.phase = .descent ∧
      t = { s with rpos := t.rpos, rbit := t.rbit,
                   walk := { s.walk with phase := .descent, pos := t.walk.pos } } := by
  unfold branch at h
  split at h
  · cases h
  · cases h
    exact ⟨rfl, by rw [bitRead_frame]⟩

/-! ### The table builder -/

/-- An entry writes what an append writes, and FIX and NFIX, and nothing else. -/
theorem emitEntry_frame {id : Nat} (h : emitEntry id s = .ok u t) :
    t = { s with pk := t.pk, ovf := t.ovf, wlen := t.wlen, wptr := t.wptr, fix := t.fix, nfix := t.nfix } := by
  unfold emitEntry at h
  split at h
  · rw [appendAll_frame _ h]
  · split at h
    · rw [appendAll_frame _ h]
    · dsimp only at h
      obtain ⟨_, w, hw, h⟩ := Res.bind_eq_ok.mp h
      have h1 := appendAll_frame _ hw
      have h2 := appendAll_frame _ h
      rw [h1] at h2
      rw [h2]
      rfl

/-- Pass 1 writes the writer's PK side, SOFF, CODE, FIX and NFIX, and nothing else. -/
theorem emitTree_frame (tr : HTree) {code : List Bool} (h : emitTree tr code s = .ok u t) :
    t = { s with pk := t.pk, ovf := t.ovf, wlen := t.wlen, wptr := t.wptr, fix := t.fix, nfix := t.nfix,
                 soff := t.soff, code := t.code } := by
  induction tr generalizing s t code u with
  | leaf id c =>
    have := emitEntry_frame (s := { s with
      soff := s.soff.write id (BitVec.ofNat 32 (s.wptr.toNat - s.tbase.toNat))
      code := s.code.write id code }) h
    rw [this]
  | node a b iha ihb =>
    unfold emitTree at h
    obtain ⟨_, _, h1, h⟩ := Res.bind_eq_ok.mp h
    obtain ⟨_, rfl⟩ := Res.ofExcept_eq_ok.mp h1
    obtain ⟨_, _, h2, h⟩ := Res.bind_eq_ok.mp h
    obtain ⟨_, rfl⟩ := Res.ofExcept_eq_ok.mp h2
    obtain ⟨_, _, h3, h⟩ := Res.bind_eq_ok.mp h
    obtain ⟨_, rfl⟩ := Res.ofExcept_eq_ok.mp h3
    obtain ⟨_, w, h4, h⟩ := Res.bind_eq_ok.mp h
    have f1 := appendAll_frame _ h4
    split at h
    · obtain ⟨_, x, h5, h⟩ := Res.bind_eq_ok.mp h
      have f2 := ihb h5
      have f3 := iha h
      rw [f1] at f2
      rw [f2] at f3
      rw [f3]
    · obtain ⟨_, x, h5, h⟩ := Res.bind_eq_ok.mp h
      have f2 := iha h5
      have f3 := ihb h
      rw [f1] at f2
      rw [f2] at f3
      rw [f3]

/-- Where a subtree has a size, that is the number of bytes it can take. -/
theorem treeExtent_eq_size (tr : HTree) {n : Nat} (h : treeSize s tr = .ok n) : treeExtent s tr = n := by
  induction tr generalizing n with
  | leaf id c => simpa [treeSize, treeExtent] using h
  | node a b iha ihb =>
    simp only [treeSize] at h
    split at h
    · cases h
    · next sa ha =>
      split at h
      · cases h
      · next sb hb =>
        simp only [vliSize] at h
        split at h
        · cases h
        · next k hk =>
          split at hk
          · cases hk
          · cases hk
            cases h
            have hm : min sa sb + 1 ≤ 254 ↔ min sa sb < 254 := by omega
            simp only [treeExtent, iha ha, ihb hb, nodeExtent, hm]

/-! ### What a fault can reach -/

/-- Bytes of PK outside those that an append can reach stay. -/
theorem spoilAppend_pkByte {lo n a : Nat} (h : a < lo ∨ lo + n ≤ a) :
    (spoilAppend lo n s).pkByte a = s.pkByte a :=
  Memory.read_blur_outside _ _ _ (by omega)

/-- Bytes of RAW outside those that emission can reach stay. -/
theorem spoilRaw_rawByte {lo n a : Nat} (h : a < lo ∨ lo + n ≤ a) :
    (spoilRaw lo n s).rawByte a = s.rawByte a :=
  Memory.read_blur_outside _ _ _ (by omega)

/-- A symbol that is not visited is out of reach of SFX, SOFF and CODE while V_HUF = 1. -/
theorem outside_reach {id : Nat} (hv : s.vHuf = true) (h : s.visited id = false) :
    (∀ r ∈ s.suffixReach, id < r.1 ∨ r.2 ≤ id) ∧ ∀ r ∈ s.leafReach, id < r.1 ∨ r.2 ≤ id := by
  have hm : id ∉ s.visitedIds := by
    simp only [State.visitedIds, List.mem_filter, List.mem_range]
    simpa [State.visited] using h
  simp only [State.suffixReach, State.leafReach, hv, if_true]
  exact ⟨outside_singleCells hm, outside_singleCells hm⟩

/-- Entries of SFX out of reach stay. -/
theorem spoilSfx_sfxOf {ids : List (Nat × Nat)} {id : Nat} (h : ∀ r ∈ ids, id < r.1 ∨ r.2 ≤ id) :
    (spoilSfx ids s).sfxOf id = s.sfxOf id :=
  Memory.read_blurEach_outside _ _ _ h

/-- Entries of SOFF and CODE out of reach stay. -/
theorem spoilTable_soffOf_codeOf {ids : List (Nat × Nat)} {k id : Nat}
    (h : ∀ r ∈ ids, id < r.1 ∨ r.2 ≤ id) :
    (spoilTable ids k s).soffOf id = s.soffOf id ∧ (spoilTable ids k s).codeOf id = s.codeOf id :=
  ⟨Memory.read_blurEach_outside _ _ _ h,
    congrArg (List.take 65535) (Memory.read_blurEach_outside Config.freeCode s.code s.freeCtr h)⟩

/-- In verify mode a fault of a walk leaves RAW and RLEN as they are. -/
theorem spoilDecode_verify {n : Nat} :
    (spoilDecode true n s t).raw = t.raw ∧ (spoilDecode true n s t).rlen = t.rlen := ⟨rfl, rfl⟩

/-! ### The block coder -/

/-- Coding a symbol writes what the bit writer writes, and nothing else. -/
theorem encodeSym_frame {id : Nat} (h : encodeSym id s = .ok u t) :
    t = { s with pk := t.pk, ovf := t.ovf, wlen := t.wlen, wptr := t.wptr, wacc := t.wacc, wcnt := t.wcnt } := by
  unfold encodeSym at h
  split at h
  · cases h
  · split at h
    · exact putAll_frame _ h
    · cases h

/-- Coding a run writes what the bit writer writes, and nothing else. -/
theorem encodeRun_frame {n k m : Nat} (h : encodeRun n k s = .ok m t) :
    t = { s with pk := t.pk, ovf := t.ovf, wlen := t.wlen, wptr := t.wptr, wacc := t.wacc, wcnt := t.wcnt } := by
  induction n generalizing k s with
  | zero => simp [encodeRun] at h; rw [← h.2]
  | succ n ih =>
    unfold encodeRun at h
    split at h
    · cases h; rfl
    · obtain ⟨_, w, hw, h⟩ := Res.bind_eq_ok.mp h
      have f1 := encodeSym_frame hw
      have f2 := ih h
      rw [f1] at f2
      rw [f2]

end Sys2Proof.Machine
end

