-- ==== Sys2Proof/Tests/Slice0.lean ====
section
/-! SUPPORT. Tests: words of the spec decoded, the spec's vectors (95_test_vectors) on single steps, and for
every obligation with hypotheses a state and operands that meet them. Expected values come from the spec. -/

namespace Sys2Proof.Tests

open Sys2Proof.Machine Sys2Proof.Safety

/-! ### Small states -/

/-- After reset, with the reference TIEBREAK, which the spec's vectors use. -/
def ready : State := { State.reset with tie := .reference }

/-- A memory that lists these values from address `a` on. -/
def memoryOf {α : Type} (a : Nat) (l : List α) : Memory α :=
  ⟨(List.range l.length).zip l |>.map (fun p => (a + p.1, p.2)), []⟩

/-- The state reached, when there is one. -/
def after (o : Host.Outcome State Fault Refusal) : State :=
  match o with
  | .next t => t
  | .fault _ => State.reset
  | .refused _ => State.reset

/-- PK holds these bytes from address 0 on, all of them valid. -/
def withPk (bs : List Byte) (s : State) : State :=
  { s with pk := memoryOf 0 bs, pkLen := BitVec.ofNat 32 bs.length }

/-- SS holds these tokens; symbols are 0, 1, ... of `n`. -/
def withSs (n : Nat) (l : List (BitVec 17)) (s : State) : State :=
  { s with ss := memoryOf 0 l, ssLen := BitVec.ofNat 32 l.length, nSym := BitVec.ofNat 32 n }

/-- A walk in write mode at address `p`. -/
def walking (ph : Phase) (p : Nat) (s : State) : State := { s with walk := ⟨ph, p, false, 0⟩ }

/-- ST of vector T5: 0 is "bc", 1 "abc", 2 "xabc", 3 "q". -/
def chainSymbols (s : State) : State :=
  { s with
    stLen := memoryOf 0 [2, 3, 4, 1]
    stData := ⟨[(0, 0x62), (1, 0x63), (255, 0x61), (256, 0x62), (257, 0x63),
      (510, 0x78), (511, 0x61), (512, 0x62), (513, 0x63), (765, 0x71)], []⟩ }

/-- The tree of vector T5, as HUF_BUILD leaves it. -/
def chainTree : State :=
  chainSymbols { ready with
    nSym := 4
    vHuf := true
    freq := memoryOf 0 [3, 2, 1, 5]
    node := memoryOf 0 [.leaf 0 3, .leaf 1 2, .leaf 2 1, .leaf 3 5, .internal 2 1 3, .internal 0 4 6,
      .internal 3 5 11]
    nleaf := 4
    nnode := 7
    root := 6
    pkCap := 64 }

/-- Two symbols, "A" and "B", four tokens each (the example of 42_huffman R161, ids 0 and 1). -/
def twoTokens : State :=
  { withSs 2 [0, 0, 0, 0, 0x10000, 1, 1, 1, 1] ready with
    stLen := memoryOf 0 [1, 1]
    stData := ⟨[(0, 0x41), (255, 0x42)], []⟩
    pkCap := 64
    tbase := 10 }

/-- Their tree. -/
def twoTree : State :=
  { twoTokens with
    vHuf := true
    freq := memoryOf 0 [4, 4]
    node := memoryOf 0 [.leaf 0 4, .leaf 1 4, .internal 0 1 8]
    nleaf := 2
    nnode := 3
    root := 2 }

/-- Their table, as SER_BUILD leaves it at TBASE = 10 (43_serializer R190's example). -/
def twoTable : State :=
  { twoTree with
    vSer := true
    code := memoryOf 0 [[false], [true]]
    soff := memoryOf 0 [1, 3]
    sfx := memoryOf 0 [noneWord, noneWord]
    pk := memoryOf 10 [0x03, 0x00, 0x41, 0x00, 0x42]
    pkLen := 17
    wptr := 15
    wlen := 15
    tlen := 5 }

/-- The packed buffer of 44_decode R222's example. -/
def twoPacked : State :=
  { twoTable with
    pk := memoryOf 10 [0x03, 0x00, 0x41, 0x00, 0x42, 0x00, 0x0F]
    rawCap := 8
    rpos := 15 }

/-! ### Well-formedness and decoding -/

theorem test_branch_below_three_is_ill_formed : Instr.wellFormed (.br 0x02) = false := by decide
theorem test_branch_escape_is_ill_formed : Instr.wellFormed (.br 0xFF) = false := by decide
theorem test_short_escape_is_ill_formed : Instr.wellFormed (.vliShort 0xFF) = false := by decide
theorem test_branch_bounds_are_well_formed :
    Instr.wellFormed (.br 0x03) = true ∧ Instr.wellFormed (.br 0xFE) = true := by decide

/-- 30_encoding R110, an opcode of each group. -/
theorem test_decode_commands :
    decodeCommand 0b00000010 = some .rst ∧ decodeCommand 0b00010001 = some .bwPut ∧
    decodeCommand 0b00100000 = some .vliEnc ∧ decodeCommand 0b00110000 = some .hufBuild ∧
    decodeCommand 0b01000011 = some .estSize ∧ decodeCommand 0b01010001 = some .encBlock ∧
    decodeCommand 0b01100000 = some .decSym := by decide

/-- 30_encoding R111: every other byte is no command. -/
theorem test_decode_no_command : decodeCommand 0x03 = none ∧ decodeCommand 0xFF = none := by decide

/-- 30_encoding R92 to R96. -/
theorem test_decode_nodes :
    decodeNode 0x00 0x41 0 = .leafB 0x41 ∧ decodeNode 0x01 0x02 0 = .leafS 0x02 ∧
    decodeNode 0x02 0x01 0 = .leafX 0x01 ∧ decodeNode 0x03 0 0 = .br 0x03 ∧
    decodeNode 0xFF 0x02 0x01 = .brl 0x02 0x01 := by decide

/-- 30_encoding R91. -/
theorem test_decode_vli :
    decodeVli 0xFE 0 0 = .vliShort 0xFE ∧ decodeVli 0xFF 0x34 0x12 = .vliLong 0x34 0x12 := by decide

theorem test_truncated_node_refused : decode .node [0xFF, 0x02] = .error .truncated := rfl

/-- Words as the opcode table numbers their bits: bit 0 of the first byte lowest. -/
theorem test_table_words :
    decodeTableWord 8 0x61 = some .decBlock ∧ decodeTableWord 16 0x4100 = some (.leafB 0x41) ∧
    decodeTableWord 8 0xFE = some (.br 0xFE) ∧ decodeTableWord 24 0x0102FF = some (.brl 0x02 0x01) := by
  decide

/-- A placed command is the next instruction of the machine after reset. -/
theorem test_placed_command_runs :
    (after (step (State.reset.withFetchWord 8 0x10))).script = [] := by decide

/-- A placed node is the next instruction: LEAF.X moves the table cursor and stays in emission at TBASE. -/
theorem test_placed_node_runs :
    (after (step (State.reset.withFetchWord 16 0x0002))).walk = ⟨.emission, 0, false, 0⟩ := by decide

/-! ### Vectors, a step each -/

/-- T9j, T9e, T9g. -/
theorem test_nop : (after (exec .nop { ready with ovf := true })).status = 0x02 := by decide
theorem test_clr : (after (exec .clr { ready with err := 5, vHuf := true, vSer := true })).status = 0x0C := by
  decide
theorem test_rst : (after (exec .rst { twoTable with err := 5 })).status = 0x00 ∧
    (after (exec .rst twoTable)).cfg = 2 ∧ (after (exec .rst twoTable)).pk = twoTable.pk := by decide

/-- T9b, T9c. -/
theorem test_illegal_command : (after (hostAct (.set 0 0x7F) ready)).status = 0xB0 ∧
    (after (hostAct (.set 0 0x7F) ready)).einfo = 0x7F := by decide
theorem test_pending_error_refuses :
    hostAct (.set 0 0x30) { ready with err := 11 } = .refused .commandRefused := rfl

/-- 60_exceptions R272 with 41_varint R152: a faulting VLI_ENC leaves PK from WPTR + 3 on as it was. -/
theorem test_vli_enc_fault_reach :
    let s := { withPk [1, 2, 3, 4, 5] ready with arg0 := 65536, wptr := 1, pkCap := 64 }
    (after (exec .vliEnc s)).pk.cells = [(0, 1), (4, 5)] := by decide

/-- R272 with 43_serializer R183 and R189: a faulting SER_BUILD leaves SFX, SOFF and CODE of the unvisited symbol 1
and FIX beyond its one fixup as they were. -/
theorem test_ser_build_fault_reach :
    let t := after (exec .serBuild { chainTree with
      freq := memoryOf 0 [3, 0, 1, 5]
      node := memoryOf 0 [.leaf 0 3, .leaf 2 1, .leaf 3 5, .internal 1 0 4, .internal 3 2 9]
      root := 4
      nnode := 5
      tbase := 0xFFFFFFFF
      sfx := memoryOf 0 [7, 7, 7, 7]
      soff := memoryOf 0 [7, 7, 7, 7]
      code := memoryOf 0 [[true], [true], [true], [true]]
      fix := memoryOf 0 [⟨7, 7⟩, ⟨7, 7⟩] })
    t.err = 3 ∧ t.sfx.cells = [(1, 7)] ∧ t.soff.cells = [(1, 7)] ∧ t.code.cells = [(1, [true])] ∧
      t.fix.cells = [(1, ⟨7, 7⟩)] := by decide

/-- R272 with R186 and R190: where V_HUF = 0 the StateFault of SER_SIZE leaves no SFX of the alphabet known, that of
SER_BUILD no SOFF, CODE and FIX, nor PK from TBASE on. -/
theorem test_stale_ser_fault_reach :
    let s := { chainTree with
      vHuf := false
      nSym := 2
      tbase := 1
      pk := memoryOf 0 [7, 7, 7]
      sfx := memoryOf 0 [7, 7, 7]
      soff := memoryOf 0 [7, 7, 7]
      code := memoryOf 0 [[true]]
      fix := memoryOf 0 [⟨7, 7⟩] }
    (after (exec .serSize s)).sfx.cells = [(2, 7)] ∧
      (let t := after (exec .serBuild s);
        t.err = 10 ∧ t.pk.cells = [(0, 7)] ∧ t.sfx.cells = [(2, 7)] ∧ t.soff.cells = [] ∧ t.code.cells = [] ∧
          t.fix.cells = []) := by decide

/-- R272 with 44_decode R221: a faulting DEC_SYM leaves RAW from DPTR + DREM on as it was. -/
theorem test_dec_sym_fault_reach :
    let s := { ready with raw := memoryOf 0 [1, 2, 3, 4], rawCap := 4, dptr := 1, drem := 2 }
    (after (exec .decSym s)).raw.cells = [(0, 1), (3, 4)] := by decide

/-- T9h, T9i. -/
theorem test_set_cfg : (after (hostAct (.set 0x10 3) { ready with vHuf := true, vSer := true })).status = 0x04 := by
  decide
theorem test_set_ss_len :
    (after (hostAct (.set 0x16 5) { ready with vHuf := true, vSer := true })).status = 0x00 := by decide

/-- T1f. -/
theorem test_bw_init :
    let t := after (exec .bwInit { ready with arg0 := 9, wptr := 7, wacc := 1, wcnt := 1 })
    t.wptr = 9 ∧ t.wacc = 0 ∧ t.wcnt = 0 := by decide

/-- T1a at its eighth bit, T1l. -/
theorem test_bw_put_completes_byte :
    let t := after (exec .bwPut { ready with arg0 := 1, wacc := 0x2A, wcnt := 7, pkCap := 64 })
    t.pkByte 0 = 0xAA ∧ t.wptr = 1 ∧ t.wlen = 1 ∧ t.wcnt = 0 := by decide
theorem test_bw_put_at_ceiling :
    let t := after (exec .bwPut { ready with arg0 := 1, wptr := 0xFFFFFFFF, wcnt := 7 })
    t.err = 3 ∧ t.einfo = 0xFFFFFFFF := by decide

/-- T1c, T1d. -/
theorem test_bw_flush :
    let t := after (exec .bwFlush { ready with wptr := 1, wacc := 0x02, wcnt := 2, pkCap := 64 })
    t.pkByte 1 = 0x02 ∧ t.wptr = 2 ∧ t.wacc = 0 ∧ t.wcnt = 0 := by decide
theorem test_bw_flush_aligned : (after (exec .bwFlush { ready with wptr := 2 })).wptr = 2 := by decide

/-- T1j, T1i. -/
theorem test_br_seek :
    let t := after (exec .brSeek { ready with pkLen := 17, pk := memoryOf 16 [0x0F], arg0 := 16, arg1 := 4 })
    t.rpos = 16 ∧ t.rbit = 4 := by decide
theorem test_br_seek_past_end :
    let t := after (exec .brSeek { ready with pkLen := 2, arg0 := 2, arg1 := 5 })
    t.rpos = 2 ∧ t.rbit = 0 := by decide

/-- T1g at its second bit, T1h past the end. -/
theorem test_br_read :
    let t := after (exec .brRead { withPk [0xAA, 0x02] ready with rbit := 1 })
    t.res0 = 1 ∧ t.rpos = 0 ∧ t.rbit = 2 := by decide
theorem test_br_read_past_end :
    let t := after (exec .brRead { withPk [0xAA, 0x02] ready with rpos := 2, res0 := 7 })
    t.res0 = 0 ∧ t.rpos = 2 ∧ t.rbit = 0 := by decide

/-- T2f, T2j. -/
theorem test_vli_enc :
    let t := after (exec .vliEnc { ready with arg0 := 0x1234, pkCap := 64 })
    t.pkByte 0 = 0xFF ∧ t.pkByte 1 = 0x34 ∧ t.pkByte 2 = 0x12 ∧ t.res0 = 3 ∧ t.wptr = 3 := by decide
theorem test_vli_enc_checks_alignment_first :
    let t := after (exec .vliEnc { ready with arg0 := 70000, wcnt := 3 })
    t.err = 9 ∧ t.einfo = 3 := by decide

/-- T2l, T2m. -/
theorem test_vli_dec :
    let t := after (exec .vliDec (withPk [0xFF, 0x05, 0x00] ready))
    t.res0 = 5 ∧ t.res1 = 3 := by decide
theorem test_vli_dec_range :
    let t := after (exec .vliDec (withPk [0xFF, 0x05] ready))
    t.err = 8 ∧ t.einfo = 2 := by decide

/-- T2k, T2n. -/
theorem test_vli_short : (after (exec (.vliShort 0x07) ready)).res0 = 7 := by decide
theorem test_vli_long : (after (exec (.vliLong 0xFF 0xFF) ready)).res0 = 65535 := by decide

/-- T3c: a leaf is popped before an internal node of the same count. -/
theorem test_huf_build :
    let t := after (exec .hufBuild (withSs 3 [0, 1, 2, 2] ready))
    t.node.cells = [(0, .leaf 0 1), (1, .leaf 1 1), (2, .leaf 2 2), (3, .internal 0 1 2),
      (4, .internal 2 3 4)] ∧ t.root = 4 ∧ t.res0 = 3 ∧ t.res1 = 5 := by decide

/-- T3f. -/
theorem test_huf_build_foreign_symbol :
    let t := after (exec .hufBuild (withSs 4 [0, 7, 9] ready))
    t.err = 9 ∧ t.einfo = 7 ∧ t.vHuf = false := by decide

/-- T5, T3g. -/
theorem test_huf_bits : (after (exec .hufBits chainTree)).res0 = 20 := by decide
theorem test_huf_bits_after_reset : (after (exec .hufBits ready)).status = 0xA0 := by decide

/-- T10. -/
theorem test_sfx_find :
    let t := after (exec .sfxFind { chainTree with arg0 := 2 })
    t.res0 = 1 ∧ t.res1 = 3 := by decide
theorem test_sfx_find_above_min :
    let t := after (exec .sfxFind { chainTree with arg0 := 1, cfg := 3 })
    t.res0 = noneWord ∧ t.res1 = 0 := by decide

/-- T5. -/
theorem test_ser_size : (after (exec .serSize chainTree)).res0 = 19 := by decide
theorem test_ser_build_table :
    let t := after (exec .serBuild chainTree)
    pkBytes 0 19 t = [0x03, 0x00, 0x71, 0x05, 0x01, 0x02, 0x62, 0x63, 0x06, 0x02, 0x01, 0x78, 0x0E, 0x00,
      0x02, 0x01, 0x61, 0x04, 0x00] ∧ t.wptr = 19 ∧ t.status = 0x0C := by decide
theorem test_ser_build_records :
    let t := after (exec .serBuild chainTree)
    t.soff.cells = [(0, 4), (1, 14), (2, 9), (3, 1)] ∧ t.fix.cells = [(0, ⟨12, 1⟩), (1, ⟨17, 0⟩)] ∧
      t.codeOf 2 = [true, true, false] := by decide

/-- T4f's shape on two symbols: eight bits, five bytes. -/
theorem test_est_size :
    let t := after (exec .estSize twoTokens)
    t.res0 = 8 ∧ t.res1 = 0 ∧ t.res2 = 5 ∧ t.status = 0x04 := by decide

/-- T7f's third bit, T7h. -/
theorem test_enc_sym :
    let t := after (exec .encSym { twoTable with arg0 := 1, wacc := 0x03, wcnt := 2 })
    t.wacc = 0x07 ∧ t.wcnt = 3 ∧ t.wptr = 15 := by decide
theorem test_enc_sym_unvisited :
    let t := after (exec .encSym { twoTable with arg0 := 2 })
    t.err = 9 ∧ t.einfo = 2 := by decide

/-- T7b, T7e. -/
theorem test_enc_block :
    let t := after (exec .encBlock { twoTable with arg0 := 5, wptr := 16 })
    t.pkByte 16 = 0x0F ∧ t.res0 = 16 ∧ t.res1 = 9 ∧ t.wptr = 17 := by decide
theorem test_enc_block_beyond_stream :
    let t := after (exec .encBlock { twoTable with arg0 := 12, wptr := 17 })
    t.res0 = 17 ∧ t.res1 = 12 := by decide

/-- 44_decode R221's walk on P2's buffer; T8a. -/
theorem test_dec_sym :
    let t := after (exec .decSym { twoPacked with rpos := 16, drem := 4 })
    t.rawByte 0 = 0x42 ∧ t.res0 = 1 ∧ t.drem = 3 ∧ t.tp = 13 ∧ t.rbit = 1 := by decide
theorem test_dec_sym_malformed :
    let t := after (exec .decSym { withPk [0x02, 0x01, 0x61, 0x05, 0x00, 0x07] ready with
      rawCap := 16, drem := 4 })
    t.err = 5 ∧ t.einfo = 5 := by decide

/-- 44_decode R222's example; T8f. -/
theorem test_dec_block :
    let t := after (exec .decBlock { twoPacked with arg0 := 4 })
    (List.range 4).map t.rawByte = [0x41, 0x41, 0x41, 0x41] ∧ t.rpos = 15 ∧ t.rbit = 4 ∧ t.res0 = 4 := by
  decide
theorem test_dec_block_range :
    let t := after (exec .decBlock { twoPacked with pkLen := 12, arg0 := 4 })
    t.err = 8 ∧ t.einfo = 12 := by decide

/-- The examples of 44_decode R211 to R215. -/
theorem test_br : (after (exec (.br 0x03) { walking .descent 10 ready with
    pk := memoryOf 20 [0x01], pkLen := 21, rpos := 20 })).walk.pos = 13 := by decide
theorem test_brl : (after (exec (.brl 0x02 0x01) { walking .descent 0 ready with
    pk := memoryOf 20 [0x01], pkLen := 21, rpos := 20 })).walk.pos = 260 := by decide
theorem test_leaf_b :
    let t := after (exec (.leafB 0x41) { walking .descent 3 ready with drem := 1, rawCap := 4 })
    t.rawByte 0 = 0x41 ∧ t.tp = 3 ∧ t.walk.phase = .idle ∧ t.rlen = 1 := by decide
theorem test_leaf_s :
    let t := after (exec (.leafS 0x02) { walking .descent 0 (withPk [0x01, 0x02, 0x61, 0x62] ready) with
      drem := 2, rawCap := 4 })
    t.rawByte 0 = 0x61 ∧ t.rawByte 1 = 0x62 ∧ t.drem = 0 ∧ t.walk.count = 2 := by decide
theorem test_leaf_x :
    let t := after (exec (.leafX 0x01) { walking .emission 0
      (withPk [0x02, 0x01, 0x78, 0x0E, 0x00] ready) with drem := 2, rawCap := 4 })
    t.rawByte 0 = 0x78 ∧ t.walk.pos = 14 ∧ t.walk.phase = .emission := by decide
theorem test_leaf_s_reads_before_it_emits :
    let t := after (exec (.leafS 0x02) { walking .descent 0 (withPk [0x01, 0x02, 0x61] ready) with
      drem := 1, rawCap := 4 })
    t.err = 8 ∧ t.einfo = 3 := by decide

/-! ### States and operands that meet the hypotheses of the obligations -/

theorem test_meets_DecodeEncodeRoundTrip : Instr.wellFormed (.brl 0x00 0xFF) = true := by decide

theorem test_meets_DecodedBytesAreItsEncoding :
    decode .node [0x01, 0x02, 0x61, 0x62] = .ok (.leafS 0x02, [0x61, 0x62]) := rfl

theorem test_meets_StepRunsDecodedInstruction :
    (let s := { ready with script := [.set 0 0x10, .get 1] };
      s.walk.phase = .idle ∧ decode .command [BitVec.setWidth 8 (0x10 : Word)] = .ok (.bwInit, [])) ∧
    (let s := walking .descent 0 (withPk [0xFF, 0x02, 0x01] ready);
      s.walk.pos + nodeFixedLen (s.pkByte s.walk.pos) ≤ s.pkLen.toNat ∧
        decode .node (pkBytes 0 (nodeFixedLen (s.pkByte 0)) s) = .ok (.brl 0x02 0x01, [])) ∧
    (let s := walking .emission 0 (withPk [0x02, 0x07] ready);
      s.walk.pos + nodeFixedLen (s.pkByte s.walk.pos) ≤ s.pkLen.toNat ∧ (s.pkByte 0).toNat ≤ 2 ∧
        decode .node (pkBytes 0 (nodeFixedLen (s.pkByte 0)) s) = .ok (.leafX 0x07, [])) ∧
    (let s := walking .vli 0 (withPk [0xFE] ready);
      s.walk.pos + vliFixedLen (s.pkByte s.walk.pos) ≤ s.pkLen.toNat ∧
        decode .vli (pkBytes 0 (vliFixedLen (s.pkByte 0)) s) = .ok (.vliShort 0xFE, [])) :=
  ⟨⟨rfl, rfl⟩, ⟨by decide, rfl⟩, ⟨by decide, by decide, rfl⟩, ⟨by decide, rfl⟩⟩

/-- The clauses: no header; a leaf entry and a BRL cut off after their first byte, a BRL after its second; a
byte above 2 in the emission phase. -/
theorem test_meets_NodeFetchFaults :
    (let s := walking .descent 0 ready; s.walk.phase = .descent ∧ s.pkLen.toNat ≤ s.walk.pos) ∧
    (let s := walking .emission 0 (withPk [0x02] ready);
      s.walk.phase = .emission ∧ s.pkLen.toNat = s.walk.pos + 1 ∧ (s.pkByte s.walk.pos).toNat ≤ 2) ∧
    (let s := walking .descent 0 (withPk [0xFF] ready);
      s.walk.phase = .descent ∧ s.pkLen.toNat = s.walk.pos + 1 ∧ s.pkByte s.walk.pos = 0xFF) ∧
    (let s := walking .descent 0 (withPk [0xFF, 0x02] ready);
      s.walk.phase = .descent ∧ s.pkLen.toNat = s.walk.pos + 2 ∧ s.pkByte s.walk.pos = 0xFF) ∧
    (let s := walking .emission 1 (withPk [0x00, 0x03] ready);
      s.walk.phase = .emission ∧ s.walk.pos < s.pkLen.toNat ∧ 2 < (s.pkByte s.walk.pos).toNat) := by
  decide

/-- A state with a walk, an error and known cells, which the reset event meets, and the last cell of PK. -/
theorem test_meets_ResetRegistersAndMemories :
    (∃ t, hostAct .reset (walking .emission 3 { twoTable with err := 3 }) = .next t) ∧
      (0xFFFFFFFF : Nat) < 2 ^ 32 ∧ twoTable.pk.find 10 = some 0x03 := ⟨⟨_, rfl⟩, by decide, rfl⟩

theorem test_meets_NopChangesNothing :
    (ready.busy = false ∧ ready.err = 0) ∧ { ready with busy := true }.busy = true ∧
      { ready with err := 3 }.err ≠ 0 := by decide

theorem test_meets_RstResetsRegistersKeepsMemories : { twoTable with err := 3 }.busy = false := rfl

theorem test_meets_ClrClearsErrAndOvf : { twoTable with err := 3, ovf := true }.busy = false := rfl

theorem test_meets_CommandsTurnedAway :
    { ready with busy := true }.busy = true ∧
    ({ ready with err := 3 }.err ≠ 0 ∧ (0x00 : Byte) ≠ 0x01 ∧ (0x00 : Byte) ≠ 0x02) ∧
    ({ ready with err := 3 }.err ≠ 0 ∧ (0x03 : Byte) ≠ 0x01 ∧ (0x03 : Byte) ≠ 0x02) := by decide

theorem test_meets_IllegalOpcodeRaises :
    ready.busy = false ∧ ready.err = 0 ∧ ready.walk = Walk.none ∧
      decode .command [0x62] = .error (.illegalOpcode 0x62) := ⟨rfl, rfl, rfl, rfl⟩

theorem test_meets_InvalidArraysRaiseStateFault :
    ready.accepts false = true ∧ ready.vHuf = false ∧ ready.vSer = false := by decide

/-- The value recorded, a state and an instruction for each code. -/
theorem test_meets_NewErrorsAreFaultsTaken :
    let ends (i : Instr) (s : State) (e : BitVec 4) (x : Word) : Bool :=
      s.err == 0 && (after (exec i s)).err == e && (after (exec i s)).einfo == x
    ends .vliEnc { ready with arg0 := 65536 } 3 65536 = true ∧
    ends .decSym { withPk [0x00, 0x41] ready with drem := 1, arg0 := 1, dptr := 7 } 4 7 = true ∧
    ends (.leafB 0x41) (walking .emission 5 ready) 5 5 = true ∧
    ends .decSym { withPk [0xFE] ready with tbase := 1 } 8 1 = true ∧
    ends .vliDec (withPk [0xFF] ready) 8 1 = true ∧
    ends .encSym { twoTable with arg0 := 2 } 9 2 = true ∧
    ends .encBlock ready 10 0x51 = true := by decide

/-- The same at the boundary values: the ceiling of the writer; the first token outside the alphabet; the first
offset beyond PK_LEN that a LEAF.X jumps to. -/
theorem test_meets_NewErrorsAreFaultsTaken_bounds :
    let ends (i : Instr) (s : State) (e : BitVec 4) (x : Word) : Bool :=
      s.err == 0 && (after (exec i s)).err == e && (after (exec i s)).einfo == x
    ends .bwFlush { ready with wcnt := 1, wptr := 0xFFFFFFFF } 3 0xFFFFFFFF = true ∧
    ends .hufBuild (withSs 1 [0, 1] ready) 9 1 = true ∧
    ends .decSym (withPk [0x02, 0x00, 0x04, 0x00] ready) 8 4 = true := by decide

/-- One register of each class, at the first and the last of its numbers. -/
theorem test_meets_HostRegisterAccess :
    ready.busy = false ∧ regOf 0x05 = none ∧ regOf 0xFF = none ∧ regOf 0x00 = some .cmd ∧
      regOf 0x01 = some .status ∧ regOf 0x2C = some .nfix ∧ regOf 0x10 = some .cfg ∧
      regOf 0x15 = some .nSym ∧ regOf 0x16 = some .ssLen ∧ regOf 0x03 = some .arg0 ∧
      regOf 0x1A = some .rlen ∧ { ready with busy := true }.busy = true ∧
      Reg.status ∉ [Reg.arg0, .arg1, .cfg, .tbase, .pkCap, .pkLen, .rawCap, .nSym, .ssLen, .dptr, .drem, .wlen,
        .rlen] := by decide

/-- While BUSY: a GET of CFG is refused, of STATUS answered; a SET of STATUS is ignored (10_state R21, R53,
20_memory R80). -/
theorem test_host_while_busy :
    hostAct (.get 0x10) { ready with busy := true } = .refused .hostAccessWhileBusy ∧
      hostAct (.get 0x01) { ready with busy := true } = .next { ready with busy := true, hostRead := 1 } ∧
      hostAct (.set 0x01 7) { ready with busy := true } = .next { ready with busy := true } := ⟨rfl, rfl, rfl⟩

/-- A GET of CFG after reset, and of a number that does not exist. -/
theorem test_get :
    (after (hostAct (.get 0x10) ready)).hostRead = 2 ∧
      (after (hostAct (.get 0x2D) { ready with hostRead := 7 })).hostRead = 0 := by decide

theorem test_meets_HostLoadsMemories :
    ready.busy = false ∧ (0 : Nat) ≠ (0xFFFFFFFF : Word).toNat ∧ (0 : Nat) ≠ (0xFFFF : BitVec 16).toNat ∧
      ((0, 254) : Nat × Nat) ≠ (0, 253) ∧
      ({ ready with busy := true }.busy = true ∧ (∀ no v, HostAction.readPk 0 ≠ .set no v) ∧
        (∀ no, HostAction.readPk 0 ≠ .get no) ∧ HostAction.readPk 0 ≠ .reset) :=
  ⟨rfl, by decide, by decide, by decide, rfl, nofun, nofun, nofun⟩

/-- A read of RAW and of a Split token. -/
theorem test_host_reads :
    (after (hostAct (.readRaw 1) { ready with raw := memoryOf 0 [0x41, 0x42] })).hostRead = 0x42 ∧
      (after (hostAct (.readSs 4) twoTokens)).hostRead = 0x10000 := by decide

theorem test_meets_InstructionsKeepHostState :
    (∃ t, exec .serBuild chainTree = .next t) ∧ Instr.serBuild ≠ .rst := ⟨⟨_, rfl⟩, by decide⟩

theorem test_meets_CompletedInstructionsFrame :
    (∃ t, exec .serBuild chainTree = .next t) ∧ (after (exec .serBuild chainTree)).err = 0 :=
  ⟨⟨_, rfl⟩, by decide⟩

/-- A command without memory; then a writer command, SER_BUILD at the writer's ceiling, a decode command in write
and in verify mode, a node. -/
theorem test_meets_FaultedInstructionsFrame :
    (let s := withPk [0xFF] ready;
      (∃ t, exec .vliDec s = .next t) ∧ s.err = 0 ∧ (after (exec .vliDec s)).err ≠ 0) ∧
    (let s := { ready with arg0 := 65536, wptr := 0xFFFFFFFC };
      (∃ t, exec .vliEnc s = .next t) ∧ s.err = 0 ∧ (after (exec .vliEnc s)).err ≠ 0 ∧
        s.wptr.toNat + 3 ≤ 0xFFFFFFFF) ∧
    (let s := { twoTree with tbase := 0xFFFFFFFB };
      (∃ t, exec .serBuild s = .next t) ∧ s.err = 0 ∧ (after (exec .serBuild s)).err ≠ 0 ∧
        s.tableBytes = 5 ∧ ∃ tr, s.tree = some tr ∧ (tableSyms tr).Perm s.visitedIds) ∧
    (let s := { ready with drem := 1 };
      (∃ t, exec .decSym s = .next t) ∧ s.err = 0 ∧ (after (exec .decSym s)).err ≠ 0) ∧
    (let s := { ready with drem := 1, arg0 := 1 };
      (∃ t, exec .decSym s = .next t) ∧ (after (exec .decSym s)).err ≠ 0 ∧ s.arg0Bit = true) ∧
    (let s := { walking .emission 0 ready with dptr := 0xFFFFFFFF };
      (∃ t, exec (.leafB 0x41) s = .next t) ∧ s.err = 0 ∧ (after (exec (.leafB 0x41) s)).err ≠ 0 ∧
        s.dptr.toNat + s.drem.toNat < 2 ^ 32) :=
  ⟨⟨⟨_, rfl⟩, by decide⟩, ⟨⟨_, rfl⟩, by decide⟩, ⟨⟨_, rfl⟩, rfl, by decide, by decide, _, rfl, by decide⟩,
    ⟨⟨_, rfl⟩, by decide⟩, ⟨⟨_, rfl⟩, by decide⟩, ⟨⟨_, rfl⟩, by decide⟩⟩

/-- The three clauses: a writer command, SER_BUILD, an instruction that stores nothing in PK. -/
theorem test_meets_CompletedInstructionsKeepOtherPk :
    ((∃ t, exec .encBlock twoTable = .next t) ∧ (after (exec .encBlock twoTable)).err = 0) ∧
    ((∃ t, exec .serBuild twoTree = .next t) ∧ (after (exec .serBuild twoTree)).err = 0) ∧
    ((∃ t, exec .nop twoTree = .next t) ∧ (after (exec .nop twoTree)).err = 0) :=
  ⟨⟨⟨_, rfl⟩, by decide⟩, ⟨⟨_, rfl⟩, by decide⟩, ⟨⟨_, rfl⟩, by decide⟩⟩

/-- The three clauses: a decode command and a node in write mode; a command of another family; verify mode. -/
theorem test_meets_CompletedInstructionsKeepOtherRaw :
    (let s := { twoPacked with drem := 1 };
      (∃ t, exec .decSym s = .next t) ∧ (after (exec .decSym s)).err = 0) ∧
    (let s := { walking .descent 3 ready with drem := 1, dptr := 0xFFFFFFFE };
      (∃ t, exec (.leafB 0x41) s = .next t) ∧ (after (exec (.leafB 0x41) s)).err = 0 ∧
        s.dptr.toNat + s.drem.toNat < 2 ^ 32) ∧
    (let s := { twoPacked with drem := 1, arg0 := 1, raw := memoryOf 0 [0x41] };
      (∃ t, exec .decSym s = .next t) ∧ (after (exec .decSym s)).err = 0 ∧ s.arg0Bit = true) :=
  ⟨⟨⟨_, rfl⟩, by decide⟩, ⟨⟨_, rfl⟩, by decide, by decide⟩, ⟨⟨_, rfl⟩, by decide, by decide⟩⟩

theorem test_meets_IdleKeepsState : ready.walk.phase = .idle ∧ ready.script = [] := ⟨rfl, rfl⟩

/-- A step of a command, from a state that meets every invariant. -/
theorem test_meets_StepKeepsMemoriesCanonical :
    let s := placeCommand 0x42 chainTree
    memoriesCanonical s = true ∧ memoriesInRange s = true ∧ ∃ t, step s = .next t :=
  ⟨by decide, by decide, ⟨_, rfl⟩⟩

theorem test_meets_StepKeepsRegisterInvariants :
    let s := placeCommand 0x51 twoTable
    (∃ t, step s = .next t) ∧ partialPadded s = true ∧ errLegal s = true ∧ flagsOrdered s = true ∧
      atRest s = true := ⟨⟨_, rfl⟩, by decide, by decide, by decide, by decide⟩

theorem test_meets_StepKeepsTreeSound :
    (∃ tr, chainTree.tree = some tr ∧ (tableSyms tr).Perm chainTree.visitedIds) ∧
      ∃ t, step (placeCommand 0x42 chainTree) = .next t :=
  ⟨⟨_, rfl, by decide⟩, ⟨_, rfl⟩⟩

theorem test_meets_BwInitPlacesWriter : { ready with arg0 := 0xFFFFFFFF }.accepts false = true := by decide

/-- The three clauses, the last below and at the ceiling. -/
theorem test_meets_BwPutAppendsOneBit :
    ready.accepts false = true ∧ ready.wcnt ≠ 7 ∧
    ({ ready with wcnt := 7, wptr := 0xFFFFFFFE }.wptr ≠ 0xFFFFFFFF) ∧
    { ready with wcnt := 7, wptr := 0xFFFFFFFF }.accepts false = true := by decide

theorem test_meets_BwFlushWritesPartialByte :
    ready.accepts false = true ∧ ready.wcnt = 0 ∧ ready.wptr ≠ 0xFFFFFFFF ∧
    { ready with wcnt := 1, wptr := 0xFFFFFFFF }.accepts false = true ∧
    { ready with wcnt := 1 }.wcnt ≠ 0 := by decide

theorem test_meets_BrSeekPlacesReader : { ready with arg0 := 16 }.accepts false = true := by decide

theorem test_meets_BrReadReturnsNextBit :
    (ready.accepts false = true ∧ ready.pkLen.toNat ≤ ready.rpos.toNat) ∧
    (let s := { withPk [0xAA] ready with rbit := 7 };
      s.accepts false = true ∧ s.rpos.toNat < s.pkLen.toNat) := by decide

theorem test_meets_PutBitsReadBack :
    let s := { ready with pkCap := 2 }
    let bits := [true, false, true, true, false, true, true, true, true]
    s.wcnt = 0 ∧ s.wacc = 0 ∧ s.wptr.toNat + (bits.length + 7) / 8 ≤ s.pkCap.toNat ∧
      s.wptr.toNat + (bits.length + 7) / 8 ≤ (2 : Word).toNat := by decide

theorem test_meets_RawEmitChecksAndEmits :
    ready.drem = 0 ∧
    (let s := { ready with drem := 1, walk := ⟨.emission, 0, true, 0⟩ };
      s.drem ≠ 0 ∧ s.walk.verify = true ∧ s.rawCap.toNat ≤ s.dptr.toNat) ∧
    (let s := { ready with drem := 1, rawCap := 1, raw := memoryOf 0 [0x42],
                           walk := ⟨.emission, 0, true, 0⟩ };
      s.rawByte s.dptr.toNat ≠ 0x41 ∧ mayEmit [0x42] s = true) ∧
    mayEmit [0x41] { ready with drem := 1, dptr := 0xFFFFFFFE } = true := by decide

theorem test_meets_VliRoundTrip :
    vliBytes 254 = .ok [0xFE] ∧ vliBytes 255 = .ok [0xFF, 0xFF, 0x00] ∧
    vliBytes 65535 = .ok [0xFF, 0xFF, 0xFF] ∧
    (let s := withPk [0xFF, 0xFF, 0x00] ready;
      0 + 3 ≤ s.pkLen.toNat ∧ pkBytes 0 3 s = [0xFF, 0xFF, 0x00]) :=
  ⟨rfl, rfl, rfl, by decide⟩

/-- The four clauses at their bounds. -/
theorem test_meets_VliEncAppendsBytes :
    { ready with wcnt := 1, arg0 := 65536 }.accepts false = true ∧
    ({ ready with arg0 := 65536 }.wcnt = 0 ∧ 65535 < { ready with arg0 := 65536 }.arg0.toNat) ∧
    (vliBytes (65535 : Word).toNat = .ok [0xFF, 0xFF, 0xFF] ∧
      (0xFFFFFFFC : Word).toNat + 3 ≤ 2 ^ 32 - 1 ∧ 2 ^ 32 - 1 < (0xFFFFFFFD : Word).toNat + 3) :=
  ⟨by decide, by decide, rfl, by decide, by decide⟩

/-- The five clauses, by PK_LEN. -/
theorem test_meets_VliDecReadsValue :
    ready.accepts false = true ∧ ready.pkLen.toNat ≤ ready.arg0.toNat ∧
    (let s := withPk [0xFE] ready; s.arg0.toNat < s.pkLen.toNat ∧ s.pkByte 0 ≠ 0xFF) ∧
    (let s := withPk [0xFF] ready; s.pkLen.toNat = s.arg0.toNat + 1 ∧ s.pkByte 0 = 0xFF) ∧
    (let s := withPk [0xFF, 0x05] ready; s.pkLen.toNat = s.arg0.toNat + 2 ∧ s.pkByte 0 = 0xFF) ∧
    (let s := withPk [0xFF, 0x05, 0x00] ready; s.arg0.toNat + 2 < s.pkLen.toNat ∧ s.pkByte 0 = 0xFF) := by
  decide

theorem test_meets_HufBuildCountsAndBuilds :
    twoTokens.accepts false = true ∧ twoTokens.nSym.toNat ≤ 65536 ∧ tokensInAlphabet twoTokens = true ∧
      (1 : Nat) < twoTokens.nSym.toNat := by decide

theorem test_meets_HufBuildTreeHasVisitedLeaves :
    twoTokens.accepts false = true ∧ (∃ t, exec .hufBuild twoTokens = .next t) ∧
    (let t := after (exec .hufBuild twoTokens);
      t.err = 0 ∧ 2 < t.nnode.toNat ∧ t.node.find 2 = some (.internal 0 1 8) ∧ t.root ≠ noneWord) :=
  ⟨by decide, ⟨_, rfl⟩, by decide⟩

/-- The least N_SYM that raises, and a stream whose second token is the first foreign one. -/
theorem test_meets_TreeBuildFaults :
    (let s := { ready with nSym := 65537 };
      s.accepts false = true ∧ 65536 < s.nSym.toNat ∧ ∃ t, exec .hufBuild s = .next t) ∧
    (let s := withSs 4 [3, 4, 9] ready;
      s.accepts false = true ∧ s.nSym.toNat ≤ 65536 ∧ 1 < s.ssLen.toNat ∧ s.token 1 = .sym 4 ∧
        s.nSym.toNat ≤ 4 ∧ s.token 0 = .sym 3 ∧ 3 < s.nSym.toNat ∧ ∃ t, exec .estSize s = .next t) :=
  ⟨⟨by decide, by decide, ⟨_, rfl⟩⟩,
    ⟨by decide, by decide, by decide, by decide, by decide, by decide, by decide, ⟨_, rfl⟩⟩⟩

/-- T3d and T3e. -/
theorem test_meets_HeightZeroTrees :
    (let s := withSs 1 [0x10000, 0x10000] ready;
      s.accepts false = true ∧ s.nSym.toNat ≤ 65536 ∧ 0 < s.nSym.toNat ∧
        s.tokens.all (fun t => decide (t = .split ∨ t = .sym 0)) = true ∧ Token.sym 0 ∉ s.tokens) ∧
    (let s := withSs 2 [1, 1, 0x10000, 1] ready;
      s.accepts false = true ∧ s.nSym.toNat ≤ 65536 ∧ 1 < s.nSym.toNat ∧
        s.tokens.all (fun t => decide (t = .split ∨ t = .sym 1)) = true ∧ Token.sym 1 ∈ s.tokens) := by
  decide

theorem test_meets_HufBitsReturnsTreeBits :
    (ready.accepts false = true ∧ ready.vHuf = false) ∧
    chainTree.accepts false = true ∧ chainTree.vHuf = true ∧ ∃ tr, chainTree.tree = some tr :=
  ⟨by decide, by decide, rfl, ⟨_, rfl⟩⟩

theorem test_meets_BestSuffixIsLongestCandidate :
    (bestSuffix chainTree 0).2 = 0 ∧ (bestSuffix chainTree 2).2 ≠ 0 ∧ IsCandidate chainTree 2 0 :=
  ⟨by decide, by decide, by unfold IsCandidate; decide⟩

/-- The chain 2, 1, 0 of vector T5. -/
theorem test_meets_SuffixChainsShortenAndEnd :
    chainTree.visited 2 = true ∧ (writeSfx chainTree).sfxOf 2 = 1 ∧ (writeSfx chainTree).sfxOf 1 = 0 ∧
      (writeSfx chainTree).sfxOf 2 ≠ noneWord ∧ (writeSfx chainTree).sfxOf 1 ≠ noneWord := by decide

theorem test_meets_SfxFindReturnsBestSuffix :
    (ready.accepts false = true ∧ ready.vHuf = false) ∧
    (let s := { chainTree with arg0 := 3 };
      s.accepts false = true ∧ s.vHuf = true ∧ s.nSym.toNat ≤ 65536 ∧ s.arg0.toNat < s.nSym.toNat ∧
        s.symLen s.arg0.toNat ≠ 0) ∧
    (let s := { chainTree with arg0 := 4 }; s.accepts false = true ∧ s.nSym.toNat ≤ s.arg0.toNat) ∧
    (let s := { chainTree with stLen := memoryOf 0 [2, 0, 4, 1], arg0 := 1 };
      s.accepts false = true ∧ s.vHuf = true ∧ s.symLen s.arg0.toNat = 0) := by decide

/-- A balanced tree of 512 leaves of 257 bytes each, as in vector T4h; the leaves are one entry of NODE,
which the size does not depend on. -/
def wideTree : State :=
  { ready with
    nSym := 1
    vHuf := true
    freq := memoryOf 0 [1]
    stLen := memoryOf 0 [255]
    node := memoryOf 0 (.leaf 0 1 :: (List.range 9).map (fun k => .internal k k 0))
    nnode := 10
    root := 9 }

/-- T4h's fault: the root's skip value is 0x103FE. -/
theorem test_meets_SerSizeReturnsTableSize_limit :
    wideTree.accepts false = true ∧ wideTree.vHuf = true ∧ wideTree.nSym.toNat ≤ 65536 ∧
      visitedHaveBytes wideTree = true ∧
      ∃ tr, wideTree.tree = some tr ∧ tableSize (writeSfx wideTree) tr = .error (.formatLimit 0x103FE) :=
  ⟨by decide, by decide, by decide, by decide, _, rfl, by rfl⟩

/-- The three leaf sizes; a skip value at each side of 254 and of 65535. -/
theorem test_meets_SerSizeReturnsTableSize_cases :
    (let s := writeSfx chainTree;
      s.symLen 3 = 1 ∧ (s.symLen 0 ≠ 1 ∧ s.sfxOf 0 = noneWord) ∧ (s.symLen 1 ≠ 1 ∧ s.sfxOf 1 ≠ noneWord)) ∧
    (let s := { ready with stLen := memoryOf 0 [251, 252], sfx := memoryOf 0 [noneWord, noneWord] };
      treeSize s (.leaf 0 1) = .ok 253 ∧ min 253 254 + 1 = 254 ∧
        treeSize s (.leaf 1 1) = .ok 254 ∧ min 254 254 + 1 = 255) ∧
    (min 65534 65534 + 1 = 65535 ∧ 65535 < min 65535 65536 + 1) :=
  ⟨by decide, ⟨rfl, rfl, rfl, rfl⟩, by decide⟩

/-- The size, and the first visited symbol without bytes. -/
theorem test_meets_SerSizeReturnsTableSize :
    (chainTree.accepts false = true ∧ chainTree.vHuf = true ∧ chainTree.nSym.toNat ≤ 65536 ∧
      visitedHaveBytes chainTree = true ∧
      ∃ tr, chainTree.tree = some tr ∧ tableSize (writeSfx chainTree) tr = .ok 19) ∧
    (let s := { chainTree with stLen := memoryOf 0 [2, 0, 0, 1] };
      s.accepts false = true ∧ s.visited 1 = true ∧ s.symLen 1 = 0 ∧
        ∀ j, j < 1 → s.visited j = true → s.symLen j ≠ 0) :=
  ⟨⟨by decide, rfl, by decide, by decide, _, rfl, rfl⟩, by decide⟩

theorem test_meets_EmitAdvancesBySize :
    let s := { writeSfx chainTree with wptr := 0xFFFFFFFA }
    let tr := HTree.leaf 1 2
    treeSize s tr = .ok 5 ∧
      (∀ id, id ∈ leafSyms tr → s.sfxOf id ≠ noneWord → s.symLen (s.sfxOf id).toNat ≤ s.symLen id) ∧
      (∃ t, emitTree tr [true] s = .ok () t) ∧ s.wptr.toNat + 5 ≤ 2 ^ 32 - 1 :=
  ⟨rfl, by decide, ⟨_, rfl⟩, by decide⟩

theorem test_meets_SerBuildCompletes :
    let s := { chainTree with tbase := 0xFFFFFFEC }
    s.accepts false = true ∧ s.vHuf = true ∧ s.nSym.toNat ≤ 65536 ∧ visitedHaveBytes s = true ∧
      (∃ tr, s.tree = some tr ∧ (tableSyms tr).Perm s.visitedIds ∧ tableSize (writeSfx s) tr = .ok 19 ∧
        (tablePlacements (writeSfx s) tr).all (fun p => decide (p.offset ≤ 65535)) = true) ∧
      s.tbase.toNat + 19 ≤ 2 ^ 32 - 1 :=
  ⟨by decide, rfl, by decide, by decide, ⟨_, rfl, by decide, rfl, by decide⟩, by decide⟩

/-- The table of vector T5 as the statement describes it: where each leaf stands, its code, the fixups, the
bytes. -/
theorem test_table_of_T5 :
    ∃ tr, chainTree.tree = some (some tr) ∧
      (let u := writeSfx chainTree;
        placements u 0 [] tr = [⟨3, 1, [false]⟩, ⟨0, 4, [true, false]⟩, ⟨2, 9, [true, true, false]⟩,
          ⟨1, 14, [true, true, true]⟩] ∧
        tableFixups u (placements u 0 [] tr) = [⟨12, 1⟩, ⟨17, 0⟩] ∧
        treeText u (fun id => if id = 0 then 4 else 14) tr =
          [0x03, 0x00, 0x71, 0x05, 0x01, 0x02, 0x62, 0x63, 0x06, 0x02, 0x01, 0x78, 0x0E, 0x00, 0x02, 0x01, 0x61,
            0x04, 0x00]) :=
  ⟨_, rfl, by decide⟩

theorem test_meets_EstSizeReturnsBitsAndBytes :
    let s := twoTokens
    let u := writeSfx (writeTree (clearTree s))
    s.accepts false = true ∧ s.nSym.toNat ≤ 65536 ∧ tokensInAlphabet s = true ∧
      visitedHaveBytes u = true ∧ ∃ tr, u.tree = some tr ∧ tableSize u tr = .ok 5 :=
  ⟨by decide, by decide, by decide, by decide, ⟨_, rfl, rfl⟩⟩

theorem test_meets_EstSizeIsBuildBitsAndSize :
    twoTokens.accepts false = true ∧ ∃ a b c, CompletesTo (exec .hufBuild twoTokens) a ∧
      CompletesTo (exec .hufBits a) b ∧ CompletesTo (exec .serSize b) c :=
  ⟨by decide, _, _, _, ⟨rfl, rfl⟩, ⟨rfl, rfl⟩, ⟨rfl, rfl⟩⟩

/-- The clauses: no table; a visited symbol, at the last address that takes a byte; the ceiling; an unvisited
symbol. -/
theorem test_meets_EncSymPutsCode :
    (ready.accepts false = true ∧ ready.vSer = false) ∧
    (let s := { twoTable with arg0 := 1, wcnt := 7, wptr := 0xFFFFFFFE };
      s.accepts false = true ∧ s.vSer = true ∧ s.nSym.toNat ≤ 65536 ∧ s.visited s.arg0.toNat = true ∧
        s.wptr.toNat + (s.wcnt.toNat + (s.codeOf s.arg0.toNat).length) / 8 ≤ 2 ^ 32 - 1) ∧
    (let s := { twoTable with arg0 := 1, wcnt := 7, wptr := 0xFFFFFFFF };
      s.visited s.arg0.toNat = true ∧
        2 ^ 32 - 1 < s.wptr.toNat + (s.wcnt.toNat + (s.codeOf s.arg0.toNat).length) / 8) ∧
    { twoTable with arg0 := 2 }.visited 2 = false := by decide

/-- The clauses: no table; unaligned; a run up to a Split that fits exactly; the ceiling; an unvisited
symbol as the run's second token. -/
theorem test_meets_EncBlockCodesRun :
    (ready.accepts false = true ∧ ready.vSer = false) ∧
    ({ twoTable with wcnt := 1 }.accepts false = true ∧ { twoTable with wcnt := 1 }.vSer = true) ∧
    (let s := { twoTable with pkCap := 16 };
      s.accepts false = true ∧ s.vSer = true ∧ s.nSym.toNat ≤ 65536 ∧ s.wcnt = 0 ∧ s.wacc = 0 ∧
        runVisited 9 0 s = true ∧ runLength 9 0 s = 4 ∧ (runCode 9 0 s).length = 4 ∧
        s.wptr.toNat + (4 + 7) / 8 ≤ s.pkCap.toNat) ∧
    2 ^ 32 - 1 < { twoTable with wptr := 0xFFFFFFFF }.wptr.toNat + (4 + 7) / 8 ∧
    (let s := { twoTable with ss := memoryOf 0 [0, 2], ssLen := 2 };
      s.accepts false = true ∧ s.wcnt = 0 ∧ runVisited 1 0 s = true ∧ runLength 1 0 s = 1 ∧
        s.token 1 = .sym 2 ∧ s.visited 2 = false) := by decide

theorem test_meets_BranchNodesFollowStreamBit :
    (walking .descent 0 ready).walk.phase = .descent ∧
      (walking .emission 0 ready).walk.phase = .emission := ⟨rfl, rfl⟩

/-- One byte with DREM = 1 at the last DPTR; a string and partial bytes that end at PK_LEN; the empty string;
verify mode. -/
theorem test_meets_LeafNodesEmit :
    mayEmit [0x41] { walking .emission 0 ready with drem := 1, dptr := 0xFFFFFFFE } = true ∧
    (let s := { walking .emission 0 (withPk [0x01, 0x02, 0x61, 0x62] ready) with drem := 2 };
      s.walk.pos + 2 + (2 : Byte).toNat ≤ s.pkLen.toNat ∧
        mayEmit (pkBytes (s.walk.pos + 2) (2 : Byte).toNat s) s = true) ∧
    mayEmit (pkBytes 2 (0 : Byte).toNat ready) ready = true ∧
    (let s := { walking .emission 0 (withPk [0x02, 0x01, 0x78, 0x0E, 0x00] ready) with drem := 1 };
      s.walk.pos + 4 + (1 : Byte).toNat ≤ s.pkLen.toNat ∧
        mayEmit (pkBytes (s.walk.pos + 2) (1 : Byte).toNat s) s = true) ∧
    mayEmit [0x41] { ready with drem := 1, rawCap := 1, raw := memoryOf 0 [0x41],
                                walk := ⟨.emission, 0, true, 0⟩ } = true := by decide

/-- The clauses, `j` at its bounds. -/
theorem test_meets_LeafNodesFault :
    ready.drem = 0 ∧
    (let s := { ready with drem := 1, walk := ⟨.emission, 0, true, 0⟩ };
      s.drem ≠ 0 ∧ s.walk.verify = true ∧ s.rawCap.toNat ≤ s.dptr.toNat) ∧
    (let s := { walking .emission 0 (withPk [0x01, 0x02, 0x61] ready) with drem := 1 };
      1 < (2 : Byte).toNat ∧ mayEmit (pkBytes 2 1 s) s = true ∧ s.pkLen.toNat = s.walk.pos + 2 + 1) ∧
    (let s := walking .emission 0 (withPk [0x01, 0x02, 0x61] ready);
      mayEmit (pkBytes 2 0 s) s = true ∧ s.walk.pos + 2 + 0 < s.pkLen.toNat ∧ s.drem.toNat = 0) ∧
    (let s := { withPk [0x01, 0x02, 0x61, 0x62] ready with
      drem := 2, rawCap := 1, raw := memoryOf 0 [0x61], walk := ⟨.emission, 0, true, 0⟩ };
      mayEmit (pkBytes 2 1 s) s = true ∧ s.walk.pos + 2 + 1 < s.pkLen.toNat ∧ 1 < s.drem.toNat ∧
        s.rawCap.toNat ≤ s.dptr.toNat + 1) ∧
    (let s := { withPk [0x02, 0x01, 0x61] ready with
      drem := 1, rawCap := 1, raw := memoryOf 0 [0x62], walk := ⟨.emission, 0, true, 0⟩ };
      mayEmit (pkBytes 2 0 s) s = true ∧ s.walk.pos + 2 + 0 < s.pkLen.toNat ∧ 0 < s.drem.toNat ∧
        s.rawByte (s.dptr.toNat + 0) ≠ s.pkByte (s.walk.pos + 2 + 0)) ∧
    (let s := walking .emission 0 (withPk [0x02, 0x00] ready);
      mayEmit (pkBytes 2 (0 : Byte).toNat s) s = true ∧ s.pkLen.toNat = s.walk.pos + 2) ∧
    (let s := walking .emission 0 (withPk [0x02, 0x00, 0x0E] ready);
      mayEmit (pkBytes 2 (0 : Byte).toNat s) s = true ∧ s.pkLen.toNat = s.walk.pos + 3) := by decide

/-- A walk of two nodes, BR and LEAF.B. -/
theorem test_walk_of_two_nodes :
    ∃ t, WalkEndsIn 2 (startWalk false { twoPacked with drem := 1 }) t :=
  ⟨_, _, rfl, .inr ⟨by decide, _, rfl, .inl ⟨rfl, rfl⟩⟩⟩

theorem test_meets_DecSymRunsOneWalk_step :
    let s := startWalk false { twoPacked with drem := 1 }
    s.walk.phase = .descent ∧ s.err = 0 ∧ ∃ u, nodeStep s = .ok () u ∧ u.walk.pos = 11 :=
  ⟨rfl, rfl, _, rfl, by decide⟩

theorem test_meets_DecSymRunsOneWalk :
    let s := { twoPacked with drem := 1 }
    s.accepts false = true ∧ s.dptr.toNat + s.drem.toNat ≤ 2 ^ 32 - 1 ∧ 2 ≤ walkBound s ∧
      ∃ t, WalkEndsIn 2 (startWalk s.arg0Bit s) t :=
  ⟨by decide, by decide, by decide, test_walk_of_two_nodes⟩

/-- The state that a piece of pseudocode reaches, when it goes on. -/
def reached (r : Res Nat) : State :=
  match r with
  | .ok _ t => t
  | .raise _ t => t
  | .stop _ => State.reset

theorem test_one_symbol :
    let s := { twoPacked with arg0 := 1, drem := 1 }
    decSymbol false s = .ok 1 (reached (decSymbol false s)) ∧ s.drem ≠ 0 ∧
      (reached (decSymbol false s)).drem = 0 := by decide

/-- A block of one symbol. -/
theorem test_meets_DecBlockDecodesUntilDremZero :
    let s := { twoPacked with arg0 := 1 }
    s.accepts false = true ∧ s.dptr.toNat + s.arg0.toNat ≤ 2 ^ 32 - 1 ∧
      1 < blockBound { s with drem := s.arg0 } ∧
      ∃ t, SymbolsLeadTo s.arg1Bit 1 { s with drem := s.arg0 } t ∧ t.drem = 0 :=
  ⟨by decide, by decide, by decide, _, ⟨test_one_symbol.2.1, _, _, test_one_symbol.1, rfl⟩,
    test_one_symbol.2.2⟩

theorem test_meets_EndingRunsStayWithinBounds :
    (∃ t, WalkEndsIn 2 (startWalk false { twoPacked with drem := 1 }) t) ∧
      ∃ t, SymbolsLeadTo false 1 { twoPacked with arg0 := 1, drem := 1 } t ∧ t.drem = 0 :=
  ⟨test_walk_of_two_nodes, _, ⟨test_one_symbol.2.1, _, _, test_one_symbol.1, rfl⟩, test_one_symbol.2.2⟩

/-- DEC_SYM on a LEAF.B at the last DPTR, on a LEAF.S that ends at PK_LEN, on an empty one, and in verify
mode. -/
theorem test_meets_HeightZeroTableReadsNoBit_one_symbol :
    (let s := { withPk [0x00, 0x62] ready with drem := 1, dptr := 0xFFFFFFFE };
      s.accepts false = true ∧ s.dptr.toNat + s.drem.toNat ≤ 2 ^ 32 - 1 ∧ s.pkByte s.tbase.toNat = 0x00 ∧
        s.tbase.toNat + 1 < s.pkLen.toNat ∧ mayEmit [s.pkByte 1] (startWalk s.arg0Bit s) = true) ∧
    (let s := { withPk [0x01, 0x02, 0x61, 0x62] ready with drem := 2 };
      s.pkByte s.tbase.toNat = 0x01 ∧ s.tbase.toNat + 1 < s.pkLen.toNat ∧
        s.tbase.toNat + 2 + (s.pkByte 1).toNat ≤ s.pkLen.toNat ∧
        mayEmit (pkBytes 2 (s.pkByte 1).toNat s) (startWalk s.arg0Bit s) = true) ∧
    (let s := withPk [0x01, 0x00] ready;
      s.tbase.toNat + 2 + (s.pkByte 1).toNat ≤ s.pkLen.toNat ∧
        mayEmit (pkBytes 2 (s.pkByte 1).toNat s) (startWalk s.arg0Bit s) = true) ∧
    (let s := { withPk [0x00, 0x62] ready with
        drem := 1, arg0 := 1, rawCap := 1, raw := memoryOf 0 [0x62] };
      s.arg0Bit = true ∧ mayEmit [s.pkByte 1] (startWalk s.arg0Bit s) = true) := by decide

/-- DEC_SYM on such a table. -/
theorem test_dec_sym_height_zero :
    let t := after (exec .decSym { withPk [0x01, 0x02, 0x61, 0x62] ready with drem := 2, rawCap := 8 })
    t.res0 = 2 ∧ t.rawByte 0 = 0x61 ∧ t.rawByte 1 = 0x62 ∧ t.tp = 0 ∧ t.rpos = 0 ∧ t.rbit = 0 := by decide

theorem test_meets_HeightZeroTableReadsNoBit :
    let s := { withPk [0x00, 0x62] ready with arg0 := 2, rawCap := 1 }
    s.accepts false = true ∧ s.arg1Bit = false ∧ s.tbase.toNat + 1 < s.pkLen.toNat ∧
      s.pkByte s.tbase.toNat = 0x00 ∧ s.dptr.toNat + s.arg0.toNat ≤ 2 ^ 32 - 1 := by decide

/-- T8k. -/
theorem test_meets_DecodeLengthFaults :
    (let s := { ready with dptr := 0xFFFFFFFF, drem := 1 };
      s.accepts false = true ∧ 2 ^ 32 - 1 < s.dptr.toNat + s.drem.toNat) ∧
    (let s := { ready with dptr := 0xFFFFFFFE, arg0 := 4 };
      s.accepts false = true ∧ 2 ^ 32 - 1 < s.dptr.toNat + s.arg0.toNat) := by decide

/-- Symbol 0 of the table at TBASE = 10; its code, one 0, is what the reader gives past PK_LEN. -/
theorem test_meets_TableDecodesEverySymbol :
    let s := twoTree
    let t := after (exec .serBuild s)
    let u := { twoPacked with pk := t.pk, rpos := 17, drem := 1 }
    (s.accepts false = true ∧ s.vHuf = true ∧ s.visited 0 = true) ∧
      (∃ tr, s.tree = some tr ∧ (tableSyms tr).Perm s.visitedIds) ∧ exec .serBuild s = .next t ∧
      (t.err = 0 ∧ s.tbase.toNat + t.tlen.toNat ≤ s.pkCap.toNat ∧ u.tbase = s.tbase ∧
        s.tbase.toNat + t.tlen.toNat ≤ u.pkLen.toNat ∧
        readBits (t.codeOf 0).length u = t.codeOf 0 ∧ s.symLen 0 ≤ u.drem.toNat ∧
        u.dptr.toNat + s.symLen 0 < 2 ^ 32) :=
  ⟨by decide, ⟨_, rfl, by decide⟩, rfl, by decide⟩

end Sys2Proof.Tests
end

section
/-! SUPPORT. What a piece of a command's pseudocode, a whole instruction and a fault keep: the relation `Works` between
the states before and after, proved once per piece, and the invariants of 10_state that follow from it. -/

namespace Sys2Proof.Machine

open Sys2Proof.Safety

/-! ### Memories that keep their form -/

/-- Canonical, with every listed address below `n`. -/
def Memory.Fits {α : Type} (n : Nat) (m : Memory α) : Prop := m.wf = true ∧ cellsBelow n m = true

theorem mem_cellsPut {α : Type} {l : List (Nat × α)} {a : Nat} {v : α} {c : Nat × α}
    (h : c ∈ cellsPut l a v) : c = (a, v) ∨ c ∈ l := by
  induction l with
  | nil => simpa [cellsPut] using h
  | cons d rest ih =>
    obtain ⟨b, w⟩ := d
    simp only [cellsPut] at h
    split at h
    · exact List.mem_cons.mp h
    · split at h
      · exact (List.mem_cons.mp h).imp_right (List.mem_cons_of_mem _)
      · rcases List.mem_cons.mp h with rfl | h
        · exact .inr (List.mem_cons_self ..)
        · exact (ih h).imp_right (List.mem_cons_of_mem _)

theorem cellsBelow_iff {α : Type} {n : Nat} {m : Memory α} :
    cellsBelow n m = true ↔ ∀ c ∈ m.cells, c.1 < n := by
  simp [cellsBelow]

theorem Memory.Fits.write {α : Type} {n a : Nat} {m : Memory α} (v : α) (h : m.Fits n) (ha : a < n) :
    (m.write a v).Fits n := by
  refine ⟨m.wf_write a v h.1, cellsBelow_iff.mpr fun c hc => ?_⟩
  rcases mem_cellsPut hc with rfl | hc
  · exact ha
  · exact cellsBelow_iff.mp h.2 c hc

theorem Memory.Fits.blur {α : Type} {n : Nat} {m : Memory α} (lo hi gen : Nat) (h : m.Fits n) :
    (m.blur lo hi gen).Fits n := by
  refine ⟨m.wf_blur lo hi gen h.1, cellsBelow_iff.mpr fun c hc => cellsBelow_iff.mp h.2 c ?_⟩
  unfold Memory.blur at hc
  split at hc
  · exact (List.mem_filter.mp hc).1
  · exact hc

/-- `memoriesCanonical` and `memoriesInRange`, memory by memory. -/
structure MemoriesFit (s : State) : Prop where
  pk : s.pk.Fits (2 ^ 32)
  raw : s.raw.Fits (2 ^ 32)
  ss : s.ss.Fits (2 ^ 32)
  stLen : s.stLen.Fits 65536
  stData : s.stData.Fits (255 * 65536)
  freq : s.freq.wf = true
  node : s.node.wf = true
  sfx : s.sfx.wf = true
  soff : s.soff.wf = true
  code : s.code.wf = true
  fix : s.fix.wf = true

theorem memoriesFit_iff {s : State} :
    MemoriesFit s ↔ memoriesCanonical s = true ∧ memoriesInRange s = true := by
  simp only [memoriesCanonical, memoriesInRange, Bool.and_eq_true]
  constructor
  · rintro ⟨⟨_, _⟩, ⟨_, _⟩, ⟨_, _⟩, ⟨_, _⟩, ⟨_, _⟩, _, _, _, _, _, _⟩
    simp only [*, and_self]
  · rintro ⟨⟨⟨⟨⟨⟨⟨⟨⟨⟨⟨hpk, hraw⟩, hss⟩, hlen⟩, hdata⟩, hfreq⟩, hnode⟩, hsfx⟩, hsoff⟩, hcode⟩, hfix⟩,
      ⟨⟨⟨hpk', hraw'⟩, hss'⟩, hlen'⟩, hdata'⟩
    exact ⟨⟨hpk, hpk'⟩, ⟨hraw, hraw'⟩, ⟨hss, hss'⟩, ⟨hlen, hlen'⟩, ⟨hdata, hdata'⟩, hfreq, hnode, hsfx, hsoff,
      hcode, hfix⟩

/-! ### The parts of the state -/

/-- What only the host writes (10_state R42, R43, log entry 3), and TIEBREAK. -/
def hostPart (s : State) := (s.ss, s.stLen, s.stData, s.script, s.hostRead, s.tie)

/-- The operands and the configuration (R25 to R31). -/
def configPart (s : State) :=
  (s.arg0, s.arg1, s.cfg, s.tbase, s.pkCap, s.pkLen, s.rawCap, s.nSym, s.ssLen)

/-- V_HUF and what it is about: the counts and the tree (R23, R36, R44, R45). -/
def treePart (s : State) := (s.vHuf, s.root, s.nnode, s.node, s.freq)

/-- BUSY and ERR, which a command leaves alone until it ends (R23). -/
def controlPart (s : State) := (s.busy, s.err)

/-- What a piece of pseudocode may do to the state: it keeps the host's side, the configuration, the tree, BUSY
and ERR; it keeps the form of the memories and the padding of WACC; it sets V_SER only under V_HUF; and it moves
the walk only if `walks`. -/
structure Works (walks : Bool) (s t : State) : Prop where
  host : hostPart t = hostPart s
  config : configPart t = configPart s
  tree : treePart t = treePart s
  control : controlPart t = controlPart s
  vSer : t.vSer = true → s.vSer = true ∨ s.vHuf = true
  walk : walks = false → t.walk = s.walk
  padded : partialPadded s = true → partialPadded t = true
  pk : s.pk.Fits (2 ^ 32) → t.pk.Fits (2 ^ 32)
  raw : s.raw.Fits (2 ^ 32) → t.raw.Fits (2 ^ 32)
  sfx : s.sfx.wf = true → t.sfx.wf = true
  soff : s.soff.wf = true → t.soff.wf = true
  code : s.code.wf = true → t.code.wf = true
  fix : s.fix.wf = true → t.fix.wf = true

variable {w : Bool} {s t u : State} {α β : Type}

theorem Works.refl (w : Bool) (s : State) : Works w s s :=
  ⟨rfl, rfl, rfl, rfl, .inl, fun _ => rfl, id, id, id, id, id, id, id⟩

theorem Works.vHuf_eq (h : Works w s t) : t.vHuf = s.vHuf := congrArg Prod.fst h.tree

theorem Works.trans (h : Works w s t) (h' : Works w t u) : Works w s u where
  host := h'.host.trans h.host
  config := h'.config.trans h.config
  tree := h'.tree.trans h.tree
  control := h'.control.trans h.control
  vSer hu := (h'.vSer hu).elim h.vSer fun hv => .inr (h.vHuf_eq ▸ hv)
  walk hw := (h'.walk hw).trans (h.walk hw)
  padded := h'.padded ∘ h.padded
  pk := h'.pk ∘ h.pk
  raw := h'.raw ∘ h.raw
  sfx := h'.sfx ∘ h.sfx
  soff := h'.soff ∘ h.soff
  code := h'.code ∘ h.code
  fix := h'.fix ∘ h.fix

theorem Works.walking (h : Works w s t) : Works true s t := { h with walk := nofun }

/-! ### Where a piece ends -/

/-- Whether it goes on or raises, the piece does so in a state with `P`. -/
def Res.Ends (P : State → Prop) : Res α → Prop
  | .ok _ t => P t
  | .raise _ t => P t
  | .stop _ => True

theorem Res.Ends.ok {P : State → Prop} {r : Res α} {a : α} (h : r.Ends P) (hr : r = .ok a t) : P t := by
  subst hr; exact h

theorem Res.Ends.raise {P : State → Prop} {r : Res α} {c : Cause} (h : r.Ends P) (hr : r = .raise c t) :
    P t := by
  subst hr; exact h

theorem Res.Ends.mono {P Q : State → Prop} {r : Res α} (h : r.Ends P) (hPQ : ∀ t, P t → Q t) : r.Ends Q := by
  cases r with
  | ok a t => exact hPQ t h
  | raise c t => exact hPQ t h
  | stop f => trivial

theorem Res.Ends.after {r : Res α} (h : r.Ends (Works w t)) (h' : Works w s t) : r.Ends (Works w s) :=
  h.mono fun _ => h'.trans

/-- Pieces in sequence: each is judged from the state it starts in. -/
theorem Res.Ends.bind {r : Res α} {k : α → State → Res β} (h : r.Ends (Works w s))
    (hk : ∀ a t, Works w s t → (k a t).Ends (Works w t)) : (r.bind k).Ends (Works w s) := by
  cases r with
  | ok a t => exact (hk a t h).after h
  | raise c t => exact h
  | stop f => trivial

theorem Res.ofExcept_works (e : Except Cause α) : (Res.ofExcept e s).Ends (Works w s) := by
  cases e <;> exact .refl w s

/-! ### The writer and the readers -/

theorem pkRead_works (a : Nat) : (pkRead a s).Ends (Works w s) := by
  unfold pkRead
  split <;> exact .refl w s

theorem pkWrite_works (a : Nat) (v : Byte) : Works w s (pkWrite a v s) := by
  unfold pkWrite
  split
  · exact { Works.refl w s with pk := fun h => h.write v (by omega) }
  · exact { Works.refl w s with }

theorem wAppend_works (v : Byte) : (wAppend v s).Ends (Works w s) := by
  unfold wAppend
  split
  · exact .refl w s
  · exact { pkWrite_works s.wptr.toNat v (s := s) with }

theorem appendAll_works (bs : List Byte) : (appendAll bs s).Ends (Works w s) := by
  induction bs generalizing s with
  | nil => exact .refl w s
  | cons v rest ih => exact (wAppend_works v).bind fun _ _ _ => ih

/-- A bit put below bit 7 leaves the bits above it 0 (10_state R32). -/
theorem padded_bitPut {acc : Byte} {cnt : BitVec 3} (b : Bool) (hc : cnt ≠ 7)
    (h : acc.toNat < 2 ^ cnt.toNat) :
    (BitVec.ofNat 8 (acc.toNat ||| (b.toNat <<< cnt.toNat))).toNat < 2 ^ (cnt + 1).toNat := by
  have hn : (cnt + 1).toNat = cnt.toNat + 1 := by bv_omega
  have hb : b.toNat <<< cnt.toNat < 2 ^ (cnt.toNat + 1) := by
    rw [Nat.shiftLeft_eq, Nat.pow_succ, Nat.mul_comm]
    exact Nat.mul_lt_mul_of_pos_left (by cases b <;> decide) (by positivity)
  have ha : acc.toNat < 2 ^ (cnt.toNat + 1) := by rw [Nat.pow_succ]; omega
  rw [hn]
  exact (Nat.mod_le _ _).trans_lt (Nat.or_lt_two_pow ha hb)

theorem bitPut_works (b : Bool) : (bitPut b s).Ends (Works w s) := by
  unfold bitPut
  dsimp only
  split
  · exact (wAppend_works _).bind fun _ t _ => { Works.refl w t with padded := fun _ => rfl }
  · next hc =>
    exact { Works.refl w s with
      padded := fun h => decide_eq_true (padded_bitPut b hc (of_decide_eq_true h)) }

theorem putAll_works (bs : List Bool) : (putAll bs s).Ends (Works w s) := by
  induction bs generalizing s with
  | nil => exact .refl w s
  | cons b rest ih => exact (bitPut_works b).bind fun _ _ _ => ih

theorem flush_works : (flush s).Ends (Works w s) := by
  unfold flush
  split
  · exact .refl w s
  · exact (wAppend_works _).bind fun _ t _ => { Works.refl w t with padded := fun _ => rfl }

theorem bitRead_works : Works w s (bitRead s).2 := by
  rw [bitRead_frame]
  exact { Works.refl w s with }

theorem skipBits_works (n : Nat) : Works w s (skipBits n s) := by
  rw [skipBits_frame]
  exact { Works.refl w s with }

theorem pkReadList_works (a n : Nat) : (pkReadList a n s).Ends (Works w s) := by
  induction n generalizing a s with
  | zero => exact .refl w s
  | succ n ih =>
    exact (pkRead_works a).bind fun _ _ _ => (ih (a + 1)).bind fun _ _ _ => .refl w _

theorem vliRead_works (a : Nat) : (vliRead a s).Ends (Works w s) := by
  refine (pkRead_works a).bind fun b0 t _ => ?_
  split
  · exact (pkRead_works _).bind fun _ _ _ => (pkRead_works _).bind fun _ _ _ => .refl w _
  · exact .refl w _

/-! ### The decode walk -/

theorem rawEmit_works (v : Byte) : (rawEmit v s).Ends (Works true s) := by
  unfold rawEmit
  split
  · exact .refl true s
  · split
    · split
      · exact .refl true s
      · exact { Works.refl true s with walk := nofun }
    · split
      · exact { Works.refl true s with walk := nofun, raw := fun h => h.write v (by omega) }
      · exact { Works.refl true s with walk := nofun }

theorem emitBytes_works (a n : Nat) : (emitBytes a n s).Ends (Works true s) := by
  induction n generalizing a s with
  | zero => exact .refl true s
  | succ n ih =>
    exact (pkRead_works a).bind fun _ _ _ => (rawEmit_works _).bind fun _ _ _ => ih (a + 1)

theorem setTp_works : Works w s (setTp s) := { Works.refl w s with }

theorem endSymbol_works : Works true s (endSymbol s) := { Works.refl true s with walk := nofun }

theorem endWalk_works : Works true s (endWalk s) := { Works.refl true s with walk := nofun }

theorem branch_works (l r : Nat) : (branch l r s).Ends (Works true s) := by
  unfold branch
  split
  · exact .refl true s
  · exact { bitRead_works (w := true) (s := s) with walk := nofun }

theorem nodeLeafB_works (data : Byte) : (nodeLeafB data s).Ends (Works true s) :=
  Res.Ends.after ((rawEmit_works data).bind fun _ _ _ => endSymbol_works) setTp_works

theorem nodeLeafS_works (n : Byte) : (nodeLeafS n s).Ends (Works true s) :=
  Res.Ends.after ((emitBytes_works _ _).bind fun _ _ _ => endSymbol_works) setTp_works

theorem nodeLeafX_works (n : Byte) : (nodeLeafX n s).Ends (Works true s) :=
  Res.Ends.after ((emitBytes_works _ _).bind fun _ _ _ => (pkRead_works _).bind fun _ _ _ =>
    (pkRead_works _).bind fun _ u _ => { Works.refl true u with walk := nofun }) setTp_works

/-- Fetching a node keeps what its pieces keep. -/
theorem withNode_works {k : Byte → Byte → Byte → State → Res α}
    (hk : ∀ h b1 b2 t, (k h b1 b2 t).Ends (Works w t)) : (withNode k s).Ends (Works w s) := by
  refine (pkRead_works _).bind fun h t _ => ?_
  split
  · exact .refl w t
  · exact (pkReadList_works _ _).bind fun _ _ _ => hk _ _ _ _

theorem fetchNode_works : (fetchNode s).Ends (Works w s) := withNode_works fun _ _ _ t => .refl w t

theorem nodeStep_works : (nodeStep s).Ends (Works true s) := by
  refine withNode_works fun h b1 b2 t => ?_
  unfold caseNode
  split
  · exact nodeLeafB_works b1
  · split
    · exact nodeLeafS_works b1
    · split
      · exact nodeLeafX_works b1
      · split
        · exact branch_works _ _
        · exact branch_works _ _

theorem runWalk_works (k : Nat) : (runWalk k s).Ends (Works true s) := by
  induction k generalizing s with
  | zero => trivial
  | succ k ih =>
    refine nodeStep_works.bind fun _ t _ => ?_
    split
    · exact .refl true t
    · exact ih

theorem decSymbol_works (verify : Bool) : (decSymbol verify s).Ends (Works true s) :=
  Res.Ends.bind ((runWalk_works _).after { Works.refl true s with walk := nofun }) fun _ t _ => .refl true t

theorem decBlockLoop_works (verify : Bool) (k total : Nat) :
    (decBlockLoop verify k total s).Ends (Works true s) := by
  induction k generalizing total s with
  | zero => trivial
  | succ k ih =>
    unfold decBlockLoop
    split
    · exact .refl true s
    · exact (decSymbol_works verify).bind fun n _ _ => ih (total + n)

theorem checkLength_works (n : Nat) : (checkLength n s).Ends (Works w s) := by
  unfold checkLength
  split <;> exact .refl w s

/-! ### The block coder -/

theorem encodeSym_works (id : Nat) : (encodeSym id s).Ends (Works w s) := by
  unfold encodeSym
  split
  · exact .refl w s
  · split
    · exact putAll_works _
    · exact .refl w s

theorem encodeRun_works (n k : Nat) : (encodeRun n k s).Ends (Works w s) := by
  induction n generalizing k s with
  | zero => exact .refl w s
  | succ n ih =>
    unfold encodeRun
    split
    · exact .refl w s
    · exact (encodeSym_works _).bind fun _ _ _ => ih (k + 1)

/-! ### The serializer -/

theorem writeSfx_works : Works w s (writeSfx s) :=
  { Works.refl w s with
    sfx := fun h => List.foldlRecOn (motive := fun m : Memory Word => m.wf = true) _ _ h fun m hm id _ =>
      m.wf_write id _ hm }

theorem sfxAll_works : (sfxAll s).Ends (Works w s) := by
  unfold sfxAll
  split
  · exact .refl w s
  · split
    · exact .refl w s
    · exact writeSfx_works

theorem withTree_works {k : Option HTree → State → Res α} (hk : ∀ tr, (k tr s).Ends (Works w s)) :
    (withTree k s).Ends (Works w s) := by
  unfold withTree
  split
  · exact hk _
  · trivial

theorem addFixup_works (target : Nat) : Works w s (addFixup target s) :=
  { Works.refl w s with fix := Memory.wf_write _ _ _ }

theorem emitEntry_works (id : Nat) : (emitEntry id s).Ends (Works w s) := by
  unfold emitEntry
  split
  · exact appendAll_works _
  · split
    · exact appendAll_works _
    · exact (appendAll_works _).bind fun _ _ _ => (appendAll_works _).after (addFixup_works _)

theorem emitLeaf_works (id : Nat) (code : List Bool) : (emitLeaf id code s).Ends (Works w s) :=
  (emitEntry_works id).after
    { Works.refl w s with soff := Memory.wf_write _ _ _, code := Memory.wf_write _ _ _ }

theorem emitTree_works (tr : HTree) (code : List Bool) : (emitTree tr code s).Ends (Works w s) := by
  induction tr generalizing code s with
  | leaf id c => exact emitLeaf_works id code
  | node a b iha ihb =>
    refine (Res.ofExcept_works _).bind fun sa _ _ => (Res.ofExcept_works _).bind fun sb _ _ =>
      (Res.ofExcept_works _).bind fun _ _ _ => (appendAll_works _).bind fun _ t _ => ?_
    split
    · exact (ihb _).bind fun _ _ _ => iha _
    · exact (iha _).bind fun _ _ _ => ihb _

theorem emitTable_works (tr : Option HTree) : (emitTable tr s).Ends (Works w s) := by
  cases tr with
  | none => exact .refl w s
  | some tr => exact emitTree_works tr []

theorem resolveFixups_works (k n : Nat) : (resolveFixups k n s).Ends (Works w s) := by
  induction n generalizing k s with
  | zero => exact .refl w s
  | succ n ih =>
    unfold resolveFixups
    split
    · trivial
    · dsimp only
      split
      · exact .refl w s
      · exact (ih (k + 1)).after ((pkWrite_works _ _).trans (pkWrite_works _ _))

theorem buildTable_works (tr : Option HTree) (est : Nat) (hv : s.vHuf = true) :
    (buildTable tr est s).Ends (Works w s) := by
  have hplaced : Works w s { s with wptr := s.tbase, wacc := 0, wcnt := 0, nfix := 0 } :=
    { Works.refl w s with padded := fun _ => rfl }
  refine ((emitTable_works tr).after hplaced).bind fun _ t ht => ?_
  split
  · exact .refl w t
  · exact (resolveFixups_works _ _).bind fun _ u hu =>
      { Works.refl w u with vSer := fun _ => .inr (hu.vHuf_eq ▸ ht.vHuf_eq ▸ hv) }

/-! ### What a fault leaves unspecified -/

theorem spoilRes0_works : Works w s (spoilRes0 s) := { Works.refl w s with }

theorem spoilRes01_works : Works w s (spoilRes01 s) := { Works.refl w s with }

theorem spoilAppend_works (lo n : Nat) : Works w s (spoilAppend lo n s) :=
  { Works.refl w s with pk := Memory.Fits.blur _ _ _ }

theorem spoilPartial_works : Works w s (spoilPartial s) :=
  { Works.refl w s with
    padded := fun _ => decide_eq_true ((Nat.mod_le _ _).trans_lt (Nat.mod_lt _ (by positivity))) }

theorem spoilSfx_works (ids : List (Nat × Nat)) : Works w s (spoilSfx ids s) :=
  { Works.refl w s with sfx := Memory.wf_blurEach _ _ _ }

theorem spoilTable_works (ids : List (Nat × Nat)) (k : Nat) : Works w s (spoilTable ids k s) :=
  { Works.refl w s with
    soff := Memory.wf_blurEach _ _ _
    code := Memory.wf_blurEach _ _ _
    fix := Memory.wf_blur _ _ _ _ }

theorem spoilReader_works : Works w s (spoilReader s) := { Works.refl w s with }

theorem spoilRaw_works (lo n : Nat) : Works w s (spoilRaw lo n s) :=
  { Works.refl w s with raw := Memory.Fits.blur _ _ _ }

theorem spoilPut_works (n : Nat) : Works w t (spoilPut n s t) :=
  (spoilAppend_works _ _).trans spoilPartial_works

theorem spoilDecode_works (verify : Bool) (n : Nat) : Works w t (spoilDecode verify n s t) := by
  have h : Works w t (spoilRes0 (spoilReader t)) := spoilReader_works.trans spoilRes0_works
  cases verify with
  | true => exact h
  | false => exact h.trans (spoilRaw_works _ _)

theorem spoilSerBuild_works (ids leaves : List (Nat × Nat)) (n k : Nat) :
    Works w t (spoilSerBuild ids leaves n k s t) :=
  ((((spoilAppend_works _ _).trans spoilPartial_works).trans (spoilSfx_works _)).trans
    (spoilTable_works _ _)).trans spoilRes0_works

end Sys2Proof.Machine
end

section
/-! SUPPORT. The tree that HUF_BUILD leaves in NODE (42_huffman R161, R164): every merge keeps a forest whose leaves
are the visited symbols, and `buildArena` ends with one tree. -/

namespace Sys2Proof.Machine

open Sys2Proof.Safety

/-! ### The queue -/

theorem leastCount_attained (nodes : List Node) (c : Nat) (q : List Nat) :
    leastCount nodes c q = c ∨ ∃ n ∈ q, countAt nodes n = leastCount nodes c q := by
  induction q generalizing c with
  | nil => exact .inl rfl
  | cons n rest ih =>
    rcases ih (min c (countAt nodes n)) with h | ⟨m, hm, h⟩
    · rcases Nat.le_total c (countAt nodes n) with hc | hc
      · exact .inl (h.trans (Nat.min_eq_left hc))
      · exact .inr ⟨n, List.mem_cons_self .., (h.trans (Nat.min_eq_right hc)).symm⟩
    · exact .inr ⟨m, List.mem_cons_of_mem _ hm, h⟩

theorem leastNodes_subset (nodes : List Node) (q : List Nat) : leastNodes nodes q ⊆ q := by
  cases q with
  | nil => exact List.nil_subset _
  | cons n rest => exact List.filter_sublist.subset

theorem leastNodes_ne_nil (nodes : List Node) {q : List Nat} (hq : q ≠ []) : leastNodes nodes q ≠ [] := by
  cases q with
  | nil => exact absurd rfl hq
  | cons n rest =>
    have hleast : ∃ m ∈ n :: rest, countAt nodes m = leastCount nodes (countAt nodes n) rest := by
      rcases leastCount_attained nodes (countAt nodes n) rest with h | ⟨m, hm, h⟩
      · exact ⟨n, List.mem_cons_self .., h.symm⟩
      · exact ⟨m, List.mem_cons_of_mem _ hm, h⟩
    obtain ⟨m, hm, hc⟩ := hleast
    exact List.ne_nil_of_mem (List.mem_filter.mpr ⟨hm, decide_eq_true hc⟩)

/-- Every TIEBREAK yields one of its candidates (R162). -/
theorem chooseTie_mem (tie : TieRule) {cands : List Nat} (h : cands ≠ []) :
    ∃ n ∈ cands, chooseTie tie cands = some n := by
  cases tie with
  | reference => exact ⟨cands.head h, List.head_mem h, List.head?_eq_some_head h⟩
  | leftOpen =>
    have hlt := Nat.mod_lt (Config.tiebreak cands) (List.length_pos_of_ne_nil h)
    exact ⟨_, List.getElem_mem hlt, List.getElem?_eq_getElem hlt⟩

/-- The queue yields one of its least-count nodes while it has any (R162). -/
theorem popMin_some (tie : TieRule) (nodes : List Node) {q : List Nat} (hq : q ≠ []) :
    ∃ n ∈ leastNodes nodes q, popMin tie nodes q = some (n, q.erase n) := by
  obtain ⟨n, hn, h⟩ := chooseTie_mem tie (leastNodes_ne_nil nodes hq)
  exact ⟨n, hn, by simp only [popMin, h]⟩

/-- The entry that a merge of `a` and `b` appends (R161 step 3). -/
def mergedNode (nodes : List Node) (a b : Nat) : Node :=
  .internal a b (BitVec.ofNat 32 (countAt nodes a + countAt nodes b))

/-- One round of `combine` on a queue of at least two nodes: two least-count nodes make way for their parent. -/
theorem combine_succ (tie : TieRule) (k : Nat) (nodes : List Node) {q : List Nat} (hq : 2 ≤ q.length) :
    ∃ a ∈ leastNodes nodes q, ∃ b ∈ leastNodes nodes (q.erase a),
      combine tie (k + 1) nodes q =
        combine tie k (nodes ++ [mergedNode nodes a b]) ((q.erase a).erase b ++ [nodes.length]) := by
  obtain ⟨a, ha, hpa⟩ := popMin_some tie nodes (List.ne_nil_of_length_pos (by omega : 0 < q.length))
  have hlen := List.length_erase_of_mem (leastNodes_subset nodes q ha)
  obtain ⟨b, hb, hpb⟩ := popMin_some tie nodes (List.ne_nil_of_length_pos (by omega : 0 < (q.erase a).length))
  exact ⟨a, ha, b, hb, by simp only [combine, hpa, hpb, mergedNode]⟩

/-! ### Trees in the arena -/

/-- Entry `n` of the arena is the root of `tr`, every child an earlier entry (R45, R164). -/
inductive TreeUnder (nodes : List Node) : Nat → HTree → Prop
  | leaf {n id : Nat} {c : Word} : nodes[n]? = some (.leaf id c) → TreeUnder nodes n (.leaf id c)
  | internal {n a b : Nat} {c : Word} {l r : HTree} : nodes[n]? = some (.internal a b c) → a < n → b < n →
      TreeUnder nodes a l → TreeUnder nodes b r → TreeUnder nodes n (.node l r)

variable {nodes : List Node} {n : Nat} {tr : HTree}

theorem TreeUnder.lt_length (h : TreeUnder nodes n tr) : n < nodes.length := by
  cases h with
  | leaf hn => exact (List.getElem?_eq_some_iff.mp hn).1
  | internal hn => exact (List.getElem?_eq_some_iff.mp hn).1

theorem TreeUnder.append (h : TreeUnder nodes n tr) (more : List Node) :
    TreeUnder (nodes ++ more) n tr := by
  have keep : ∀ {n e}, nodes[n]? = some e → (nodes ++ more)[n]? = some e := fun h =>
    (List.getElem?_append_left (List.getElem?_eq_some_iff.mp h).1).trans h
  induction h with
  | leaf hn => exact .leaf (keep hn)
  | internal hn ha hb _ _ iha ihb => exact .internal (keep hn) ha hb iha ihb

/-- A memory that lists the arena holds the tree, with room for as many levels as the root's index allows. -/
theorem treeAt_of_treeUnder {m : Memory Node} (hm : ∀ n < nodes.length, m.find n = nodes[n]?)
    (h : TreeUnder nodes n tr) {k : Nat} (hk : n < k) : treeAt m k n = some tr := by
  have hfind := hm n h.lt_length
  induction h generalizing k with
  | leaf hn =>
    obtain ⟨k, rfl⟩ := Nat.exists_eq_succ_of_ne_zero (Nat.ne_zero_of_lt hk)
    simp only [treeAt, hfind, hn]
  | internal hn ha hb hl hr ihl ihr =>
    obtain ⟨k, rfl⟩ := Nat.exists_eq_succ_of_ne_zero (Nat.ne_zero_of_lt hk)
    simp only [treeAt, hfind, hn, ihl (by omega : _ < k) (hm _ hl.lt_length),
      ihr (by omega : _ < k) (hm _ hr.lt_length)]

/-! ### The forest of a queue -/

/-- Every node of the queue is the root of a tree, `tree` naming it, and together their leaves are `syms`. -/
structure Forest (nodes : List Node) (q : List Nat) (syms : List Nat) (tree : Nat → HTree) : Prop where
  under : ∀ n ∈ q, TreeUnder nodes n (tree n)
  leaves : (q.flatMap fun n => leafSyms (tree n)).Perm syms

variable {q syms : List Nat} {tree : Nat → HTree}

/-- A merge keeps the forest and its leaves. -/
theorem Forest.merge (h : Forest nodes q syms tree) {a b : Nat} (ha : a ∈ q) (hb : b ∈ q.erase a) :
    Forest (nodes ++ [mergedNode nodes a b]) ((q.erase a).erase b ++ [nodes.length]) syms
      (Function.update tree nodes.length (.node (tree a) (tree b))) := by
  have hperm : q.Perm (a :: b :: (q.erase a).erase b) :=
    (List.perm_cons_erase ha).trans ((List.perm_cons_erase hb).cons a)
  have hold : ∀ n ∈ (q.erase a).erase b, TreeUnder nodes n (tree n) := fun n hn =>
    h.under n (List.mem_of_mem_erase (List.mem_of_mem_erase hn))
  have hsame : ∀ n ∈ (q.erase a).erase b,
      Function.update tree nodes.length (.node (tree a) (tree b)) n = tree n := fun n hn =>
    Function.update_of_ne (hold n hn).lt_length.ne ..
  have hta := h.under a ha
  have htb := h.under b (List.mem_of_mem_erase hb)
  constructor
  · intro n hn
    rcases List.mem_append.mp hn with hn | hn
    · rw [hsame n hn]
      exact (hold n hn).append _
    · rw [List.mem_singleton.mp hn, Function.update_self]
      exact .internal List.getElem?_concat_length hta.lt_length htb.lt_length (hta.append _) (htb.append _)
  · refine List.Perm.trans ?_ ((hperm.flatMap_right _).symm.trans h.leaves)
    rw [List.flatMap_append, List.flatMap_congr fun n hn => congrArg leafSyms (hsame n hn)]
    simp only [List.flatMap_cons, List.flatMap_nil, List.append_nil, Function.update_self, leafSyms]
    exact List.perm_append_comm.trans (by rw [List.append_assoc])

/-- `combine` merges a forest down to one tree with the same leaves, one new entry per merge. -/
theorem combine_forest (tie : TieRule) (k : Nat) (hq : q.length = k + 1) (h : Forest nodes q syms tree) :
    ∃ r tr, (combine tie k nodes q).2 = [r] ∧ (combine tie k nodes q).1.length = nodes.length + k ∧
      TreeUnder (combine tie k nodes q).1 r tr ∧ (leafSyms tr).Perm syms := by
  induction k generalizing nodes q tree with
  | zero =>
    obtain ⟨r, rfl⟩ := List.length_eq_one_iff.mp hq
    refine ⟨r, tree r, rfl, rfl, h.under r (List.mem_singleton_self r), ?_⟩
    simpa using h.leaves
  | succ k ih =>
    obtain ⟨a, ha, b, hb, hc⟩ := combine_succ tie k nodes (by omega : 2 ≤ q.length)
    have ha := leastNodes_subset _ _ ha
    have hb := leastNodes_subset _ _ hb
    have hlen : ((q.erase a).erase b ++ [nodes.length]).length = k + 1 := by
      simp [List.length_erase_of_mem hb, List.length_erase_of_mem ha, hq]
    obtain ⟨r, tr, hr, hn, htr, hl⟩ := ih hlen (h.merge ha hb)
    rw [hc]
    exact ⟨r, tr, hr, by simpa [Nat.add_comm, Nat.add_left_comm] using hn, htr, hl⟩

/-! ### The leaves -/

theorem leavesOf_eq (freq : Nat → Word) (ids : List Nat) :
    leavesOf freq ids =
      (ids.filter (fun id => decide (freq id ≠ 0))).map (fun id => .leaf id (freq id)) := by
  induction ids with
  | nil => rfl
  | cons id rest ih => by_cases h : freq id = 0#32 <;> simp [leavesOf, h, ih]

/-- The leaves of HUF_BUILD are a forest of one-leaf trees. -/
theorem leaves_forest (freq : Nat → Word) (ids : List Nat) :
    Forest (ids.map fun id => .leaf id (freq id)) (List.range ids.length) ids
      (fun n => .leaf (ids.getD n 0) (freq (ids.getD n 0))) where
  under n hn := by
    have hn : n < ids.length := List.mem_range.mp hn
    exact .leaf (by simp [hn])
  leaves := by
    have : (List.range ids.length).map (fun n => ids.getD n 0) = ids :=
      List.ext_getElem (by simp) (fun n _ _ => by simp_all)
    simp only [leafSyms, ← List.map_eq_flatMap, this, List.Perm.refl]

/-- The arena over the leaves of `ids`: none, or one tree over them all under the node left in the queue. -/
theorem buildArena_tree (tie : TieRule) (freq : Nat → Word) (ids : List Nat) :
    let arena := buildArena tie (ids.map fun id => .leaf id (freq id))
    arena.1.length = 2 * ids.length - 1 ∧
      (ids = [] ∧ arena.2 = [] ∨
        ∃ r tr, arena.2 = [r] ∧ TreeUnder arena.1 r tr ∧ (leafSyms tr).Perm ids) := by
  unfold buildArena
  rw [List.length_map]
  by_cases h : ids = []
  · subst h; exact ⟨rfl, .inl ⟨rfl, rfl⟩⟩
  · have hpos := List.length_pos_of_ne_nil h
    obtain ⟨r, tr, hr, hn, htr, hl⟩ :=
      combine_forest tie (ids.length - 1) (by simp; omega) (leaves_forest freq ids)
    refine ⟨?_, .inr ⟨r, tr, hr, htr, hl⟩⟩
    rw [hn, List.length_map]
    omega

/-! ### The tree after HUF_BUILD's body -/

variable {s : State}

/-- The visited symbols of the counts that HUF_BUILD's body writes. -/
theorem writeTree_visitedIds (s : State) :
    (writeTree s).visitedIds = (List.range s.nSym.toNat).filter (fun id => decide (s.countOf id ≠ 0)) :=
  List.filter_congr fun id hid => by
    have hid : id < s.nSym.toNat := List.mem_range.mp hid
    simp [State.freqOf, writeTree, Memory.read_fill, hid]

theorem newLeaves_eq (s : State) :
    s.newLeaves = (writeTree s).visitedIds.map (fun id => .leaf id (s.countOf id)) := by
  rw [writeTree_visitedIds]
  exact leavesOf_eq _ _

theorem visitedIds_length_le (s : State) : s.visitedIds.length ≤ s.nSym.toNat :=
  (List.length_filter_le _ _).trans_eq List.length_range

/-- Over an alphabet of at most 65536 symbols HUF_BUILD's body leaves a tree under ROOT with one leaf per visited
symbol (42_huffman R164). -/
theorem writeTree_tree (h : s.nSym.toNat ≤ 65536) :
    ∃ tr, (writeTree s).tree = some tr ∧ (tableSyms tr).Perm (writeTree s).visitedIds := by
  obtain ⟨hlen, harena⟩ := buildArena_tree s.tie s.countOf (writeTree s).visitedIds
  rw [← newLeaves_eq] at hlen harena
  change s.newArena.1.length = _ at hlen
  change _ ∧ s.newArena.2 = _ ∨ ∃ r tr, s.newArena.2 = _ ∧ TreeUnder s.newArena.1 r tr ∧ _ at harena
  have hids : (writeTree s).visitedIds.length ≤ s.nSym.toNat := visitedIds_length_le (writeTree s)
  rcases harena with ⟨hnil, hq⟩ | ⟨r, tr, hq, hu, hl⟩
  · exact ⟨none, by simp [State.tree, writeTree, hq, rootOf], by rw [hnil]; exact .nil⟩
  · refine ⟨some tr, ?_, hl⟩
    have hr := hu.lt_length
    have hroot : (writeTree s).root.toNat = r := by
      simp only [writeTree, hq, rootOf, BitVec.toNat_ofNat]
      omega
    have hnone : (writeTree s).root ≠ noneWord := fun e => by
      rw [e] at hroot
      simp [noneWord] at hroot
      omega
    have hcount : (writeTree s).nnode.toNat = s.newArena.1.length := by
      simp only [writeTree, BitVec.toNat_ofNat]
      omega
    have hfind : ∀ n < s.newArena.1.length, (writeTree s).node.find n = s.newArena.1[n]? := fun n hn => by
      simp [writeTree, Memory.find_fill, hn]
    simp only [State.tree, hnone, if_false, hroot, hcount, treeAt_of_treeUnder hfind hu hr]

end Sys2Proof.Machine
end

section
/-! SUPPORT. What an instruction, an action of the host and a step keep: the invariants of 10_state, derived from what
the pieces do (`Works`) and from the tree that HUF_BUILD's body leaves. -/

namespace Sys2Proof.Machine

open Sys2Proof.Safety

variable {w : Bool} {s t u v : State}

/-! ### Invariants kept -/

/-- From `s` to `t` every invariant is kept, but that the engine is at rest. -/
structure KeepsInvariants (s t : State) : Prop where
  memories : MemoriesFit s → MemoriesFit t
  padded : partialPadded s = true → partialPadded t = true
  err : errLegal s = true → errLegal t = true
  flags : flagsOrdered s = true → flagsOrdered t = true
  tree : treeSound s → treeSound t

/-- What an instruction other than RST keeps: the invariants, the host's side, the configuration; and, unless it
is a part of a walk (`walks`), that the engine is at rest. -/
structure InstrKeeps (walks : Bool) (s t : State) : Prop extends KeepsInvariants s t where
  host : hostPart t = hostPart s
  config : configPart t = configPart s
  rest : walks = false → atRest s = true → atRest t = true

/-- What a step keeps: every invariant. -/
structure StepKeeps (s t : State) : Prop extends KeepsInvariants s t where
  rest : atRest s = true → atRest t = true

theorem KeepsInvariants.trans (h : KeepsInvariants s t) (h' : KeepsInvariants t u) : KeepsInvariants s u :=
  ⟨h'.memories ∘ h.memories, h'.padded ∘ h.padded, h'.err ∘ h.err, h'.flags ∘ h.flags, h'.tree ∘ h.tree⟩

theorem atRest_iff : atRest s = true ↔ s.busy = false ∧ s.walk = Walk.none := by
  simp [atRest]

theorem flagsOrdered_iff : flagsOrdered s = true ↔
    (s.vSer = true → s.vHuf = true) ∧ (s.vHuf = true → s.nSym.toNat ≤ 65536) := by
  simp [flagsOrdered, Bool.not_eq_eq_eq_not, imp_iff_not_or]

theorem nSym_of_configPart (h : configPart t = configPart s) : t.nSym = s.nSym := by
  simp only [configPart, Prod.mk.injEq] at h
  obtain ⟨_, _, _, _, _, _, _, hn, _⟩ := h
  exact hn

theorem busy_of_controlPart (h : controlPart t = controlPart s) : t.busy = s.busy := congrArg Prod.fst h

theorem err_of_controlPart (h : controlPart t = controlPart s) : t.err = s.err := congrArg Prod.snd h

/-- BUSY and the walk unchanged, the engine is at rest as before. -/
theorem atRest_of_parts (hc : controlPart t = controlPart s) (hw : s.walk = Walk.none → t.walk = Walk.none)
    (h : atRest s = true) : atRest t = true := by
  obtain ⟨hb, hn⟩ := atRest_iff.mp h
  exact atRest_iff.mpr ⟨(busy_of_controlPart hc).trans hb, hw hn⟩

theorem errLegal_of_controlPart (hc : controlPart t = controlPart s) (h : errLegal s = true) :
    errLegal t = true := by
  rw [errLegal, err_of_controlPart hc]
  exact h

/-- Whether the tree is sound depends on the tree's part of the state and N_SYM alone. -/
theorem treeSound_congr (htree : treePart t = treePart s) (hn : t.nSym = s.nSym) (h : treeSound s) :
    treeSound t := by
  simp only [treePart, Prod.mk.injEq] at htree
  obtain ⟨hv, hr, hk, hm, hf⟩ := htree
  have htr : t.tree = s.tree := by simp only [State.tree, hr, hk, hm]
  have hids : t.visitedIds = s.visitedIds := by unfold State.visitedIds State.freqOf; rw [hf, hn]
  intro hvt
  rw [htr, hids]
  exact h (hv ▸ hvt)

theorem Works.memories (h : Works w s t) (hs : MemoriesFit s) : MemoriesFit t := by
  have hhost := h.host
  have htree := h.tree
  simp only [hostPart, treePart, Prod.mk.injEq] at hhost htree
  obtain ⟨hss, hlen, hdata, _⟩ := hhost
  obtain ⟨_, _, _, hnode, hfreq⟩ := htree
  exact {
    pk := h.pk hs.pk, raw := h.raw hs.raw, ss := hss ▸ hs.ss, stLen := hlen ▸ hs.stLen
    stData := hdata ▸ hs.stData, freq := hfreq ▸ hs.freq, node := hnode ▸ hs.node, sfx := h.sfx hs.sfx
    soff := h.soff hs.soff, code := h.code hs.code, fix := h.fix hs.fix }

/-- The flags are ordered when V_SER is set only where V_HUF was, and V_HUF and N_SYM stay. -/
theorem Works.flags (h : Works w s t) (hs : flagsOrdered s = true) : flagsOrdered t = true := by
  obtain ⟨hser, hhuf⟩ := flagsOrdered_iff.mp hs
  rw [flagsOrdered_iff, h.vHuf_eq, nSym_of_configPart h.config]
  exact ⟨fun ht => (h.vSer ht).elim hser id, hhuf⟩

theorem Works.keepsInvariants (h : Works w s t) : KeepsInvariants s t where
  memories := h.memories
  padded := h.padded
  err := errLegal_of_controlPart h.control
  flags := h.flags
  tree := treeSound_congr h.tree (nSym_of_configPart h.config)

/-- The taking of a fault keeps the invariants: every cause has a legal code (60_exceptions R260, R271). -/
theorem takeFault_instrKeeps (c : Cause) : InstrKeeps w s (takeFault c s) where
  memories h := { h with }
  padded := id
  err _ := by cases c <;> rfl
  flags := id
  tree := id
  host := rfl
  config := rfl
  rest _ _ := rfl

theorem Works.instrKeeps (h : Works w s t) (hw : w = false → s.walk = Walk.none → t.walk = Walk.none) :
    InstrKeeps w s t where
  toKeepsInvariants := h.keepsInvariants
  host := h.host
  config := h.config
  rest hf := atRest_of_parts h.control (hw hf)

/-- A fault taken in a state that the pieces and the spoiling led to. -/
theorem Works.takeFault_keeps (h : Works w s t) (c : Cause) (w' : Bool) : InstrKeeps w' s (takeFault c t) where
  toKeepsInvariants := h.keepsInvariants.trans (takeFault_instrKeeps (w := w') c).toKeepsInvariants
  host := h.host
  config := h.config
  rest _ _ := rfl

/-! ### Commands -/

section Command

variable {always : Bool} {spoil : State → State → State} {body : State → Res Unit}

/-- A command whose body and spoiling are made of such pieces, and that leaves no walk behind. -/
theorem command_keeps (h : command always spoil body s = .next t) (hb : (body s).Ends (Works w s))
    (hw : ∀ u, body s = .ok () u → s.walk = Walk.none → u.walk = Walk.none)
    (hs : ∀ u, Works true u (spoil s u)) : InstrKeeps false s t := by
  obtain ⟨_, hok | ⟨c, u, hr, rfl⟩⟩ := command_next h
  · have hst := hb.ok hok
    exact { hst.walking.instrKeeps nofun with rest := fun _ => atRest_of_parts hst.control (hw t hok) }
  · exact ((hb.raise hr).walking.trans (hs u)).takeFault_keeps c false

/-- A command whose body leaves the walk alone. -/
theorem command_keeps_of_still (h : command always spoil body s = .next t)
    (hb : (body s).Ends (Works false s)) (hs : ∀ u, Works true u (spoil s u)) : InstrKeeps false s t :=
  command_keeps h hb (fun _ hok => ((hb.ok hok).walk rfl).trans) hs

end Command

theorem execNop_keeps (h : execNop s = .next t) : InstrKeeps false s t :=
  command_keeps_of_still h (.refl false s) (.refl true)

theorem execBwInit_keeps (h : execBwInit s = .next t) : InstrKeeps false s t :=
  command_keeps_of_still h { Works.refl false s with padded := fun _ => rfl } (.refl true)

theorem execBwPut_keeps (h : execBwPut s = .next t) : InstrKeeps false s t :=
  command_keeps_of_still h (bitPut_works _) (fun _ => spoilPut_works 1)

theorem execBwFlush_keeps (h : execBwFlush s = .next t) : InstrKeeps false s t :=
  command_keeps_of_still h flush_works (fun _ => spoilPut_works 1)

theorem execBrSeek_keeps (h : execBrSeek s = .next t) : InstrKeeps false s t := by
  have hplaced : Works false s { s with rpos := s.arg0, rbit := 0 } := { Works.refl false s with }
  exact command_keeps_of_still h (hplaced.trans (skipBits_works _)) (.refl true)

theorem execBrRead_keeps (h : execBrRead s = .next t) : InstrKeeps false s t :=
  command_keeps_of_still h { bitRead_works (w := false) (s := s) with } (.refl true)

theorem execVliEnc_keeps (h : execVliEnc s = .next t) : InstrKeeps false s t := by
  refine command_keeps_of_still h ?_ (fun _ => (spoilAppend_works _ _).trans spoilRes0_works)
  split
  · exact (Res.ofExcept_works _).bind fun _ _ _ => (appendAll_works _).bind fun _ u _ =>
      { Works.refl false u with }
  · exact .refl false s

theorem execVliDec_keeps (h : execVliDec s = .next t) : InstrKeeps false s t :=
  command_keeps_of_still h ((vliRead_works _).bind fun _ u _ => { Works.refl false u with })
    (fun _ => spoilRes01_works)

theorem execHufBits_keeps (h : execHufBits s = .next t) : InstrKeeps false s t := by
  refine command_keeps_of_still h ?_ (fun _ => spoilRes01_works)
  split
  · exact withTree_works fun _ => { Works.refl false s with }
  · exact .refl false s

theorem execSfxFind_keeps (h : execSfxFind s = .next t) : InstrKeeps false s t := by
  refine command_keeps_of_still h ?_ (fun _ => spoilRes01_works)
  split
  · split
    · exact .refl false s
    · split
      · exact .refl false s
      · exact { Works.refl false s with }
  · exact .refl false s

theorem execSerSize_keeps (h : execSerSize s = .next t) : InstrKeeps false s t := by
  refine command_keeps_of_still h ?_ (fun _ => (spoilSfx_works _).trans spoilRes0_works)
  split
  · exact sfxAll_works.bind fun _ _ _ => withTree_works fun _ => (Res.ofExcept_works _).bind fun _ u _ =>
      { Works.refl false u with }
  · exact .refl false s

theorem clearTable_works : Works w s (clearTable s) := { Works.refl w s with vSer := nofun }

theorem execSerBuild_keeps (h : execSerBuild s = .next t) : InstrKeeps false s t := by
  refine command_keeps_of_still h ?_ (fun _ => spoilSerBuild_works _ _ _ _)
  split
  · next hv =>
    refine Res.Ends.after (Res.Ends.bind sfxAll_works fun _ u hu => ?_) clearTable_works
    exact withTree_works fun tr => (Res.ofExcept_works _).bind fun est x hx =>
      buildTable_works tr est (hx.vHuf_eq.trans (hu.vHuf_eq.trans hv))
  · exact .refl false s

theorem execEncSym_keeps (h : execEncSym s = .next t) : InstrKeeps false s t := by
  refine command_keeps_of_still h ?_ (fun _ => spoilPut_works _)
  split
  · exact encodeSym_works _
  · exact .refl false s

theorem execEncBlock_keeps (h : execEncBlock s = .next t) : InstrKeeps false s t := by
  refine command_keeps_of_still h ?_ (fun _ => (spoilPut_works _).trans spoilRes01_works)
  split
  · split
    · refine Res.Ends.bind ((encodeRun_works _ _).after ?_) fun _ _ _ => flush_works.bind fun _ u _ =>
        { Works.refl false u with }
      exact { Works.refl false s with }
    · exact .refl false s
  · exact .refl false s

/-- The end of a decode command: no walk is left (10_state R51). -/
theorem endWalk_result_works (r : Word) : Works true s { endWalk s with res0 := r } :=
  { endWalk_works (s := s) with }

theorem execDecSym_keeps (h : execDecSym s = .next t) : InstrKeeps false s t := by
  refine command_keeps h ((checkLength_works _).bind fun _ _ _ => (decSymbol_works _).bind fun _ _ _ =>
    endWalk_result_works _) (fun u hu _ => ?_) (fun _ => spoilDecode_works _ _)
  obtain ⟨_, _, _, hu⟩ := Res.bind_eq_ok.mp hu
  obtain ⟨_, _, _, hu⟩ := Res.bind_eq_ok.mp hu
  cases hu; rfl

theorem execDecBlock_keeps (h : execDecBlock s = .next t) : InstrKeeps false s t := by
  refine command_keeps h ((checkLength_works _).bind fun _ u _ => Res.Ends.bind ((decBlockLoop_works _ _ _).after
    { Works.refl true u with }) fun _ _ _ => endWalk_result_works _) (fun u hu _ => ?_)
    (fun _ => spoilDecode_works _ _)
  obtain ⟨_, _, _, hu⟩ := Res.bind_eq_ok.mp hu
  obtain ⟨_, _, _, hu⟩ := Res.bind_eq_ok.mp hu
  cases hu; rfl

theorem illegalCommand_keeps (c : Byte) (h : illegalCommand c s = .next t) : InstrKeeps false s t :=
  command_keeps_of_still h (.refl false s) (.refl true)

/-- CLR clears ERR and OVF (R251). -/
theorem execClr_next (h : execClr s = .next t) : t = acknowledge s := by
  obtain ⟨_, hok | ⟨_, _, hr, _⟩⟩ := command_next h
  · cases hok; rfl
  · cases hr

theorem execClr_keeps (h : execClr s = .next t) : InstrKeeps false s t := by
  rw [execClr_next h]
  exact { memories := fun h => { h with }, padded := id, err := fun _ => rfl, flags := id, tree := id,
          host := rfl, config := rfl, rest := fun _ => id }

/-- RST resets the registers (R252). -/
theorem execRst_next (h : execRst s = .next t) : t = resetRegisters s := by
  obtain ⟨_, hok | ⟨_, _, hr, _⟩⟩ := command_next h
  · cases hok; rfl
  · cases hr

theorem resetRegisters_keeps : StepKeeps s (resetRegisters s) where
  memories h := { h with }
  padded _ := rfl
  err _ := rfl
  flags _ := rfl
  tree _ := nofun
  rest _ := rfl

/-! ### The commands that build a tree -/

/-- A state on the way of HUF_BUILD or EST_SIZE: the flags are clear, the tree may be anything. -/
structure Unbuilt (s t : State) : Prop where
  host : hostPart t = hostPart s
  config : configPart t = configPart s
  control : controlPart t = controlPart s
  walk : t.walk = s.walk
  vHuf : t.vHuf = false
  vSer : t.vSer = false
  padded : partialPadded s = true → partialPadded t = true
  memories : MemoriesFit s → MemoriesFit t

theorem clearTree_unbuilt : Unbuilt s (clearTree s) :=
  ⟨rfl, rfl, rfl, rfl, rfl, rfl, id, fun h => { h with }⟩

theorem writeTree_unbuilt : Unbuilt s (writeTree (clearTree s)) :=
  ⟨rfl, rfl, rfl, rfl, rfl, rfl, id, fun h =>
    { h with freq := Memory.wf_fill _ _ _ h.freq, node := Memory.wf_fill _ _ _ h.node }⟩

theorem Unbuilt.works (h : Unbuilt s t) (h' : Works false t u) : Unbuilt s u where
  host := h'.host.trans h.host
  config := h'.config.trans h.config
  control := h'.control.trans h.control
  walk := (h'.walk rfl).trans h.walk
  vHuf := h'.vHuf_eq.trans h.vHuf
  vSer := by
    by_contra hu
    rcases h'.vSer (by simpa using hu) with e | e
    · exact absurd (h.vSer.symm.trans e) nofun
    · exact absurd (h.vHuf.symm.trans e) nofun
  padded := h'.padded ∘ h.padded
  memories := h'.memories ∘ h.memories

theorem Unbuilt.afterSpoilTree (h : Unbuilt s t) (n : Nat) : Unbuilt s (spoilTree n t) :=
  { h with memories := fun hs =>
      { h.memories hs with
        freq := Memory.wf_blur _ _ _ _ (h.memories hs).freq
        node := Memory.wf_blur _ _ _ _ (h.memories hs).node } }

/-- A fault on that way leaves no tree that is marked valid. -/
theorem Unbuilt.takeFault_keeps (h : Unbuilt s t) (c : Cause) : InstrKeeps false s (takeFault c t) where
  memories hs := { h.memories hs with }
  padded := h.padded
  err _ := by cases c <;> rfl
  flags _ := flagsOrdered_iff.mpr ⟨fun hs => absurd (h.vSer.symm.trans hs) nofun,
    fun hv => absurd (h.vHuf.symm.trans hv) nofun⟩
  tree _ hv := absurd (h.vHuf.symm.trans hv) nofun
  host := h.host
  config := h.config
  rest _ _ := rfl

/-- At the end of that way the tree that HUF_BUILD's body left is marked valid. -/
theorem built_keeps (hn : s.nSym.toNat ≤ 65536) (h : Works false (writeTree (clearTree s)) t) :
    InstrKeeps false s { t with vHuf := true } := by
  have hu : Unbuilt s t := writeTree_unbuilt.works h
  have hnt : t.nSym = s.nSym := nSym_of_configPart hu.config
  have hsound : treeSound { writeTree (clearTree s) with vHuf := true } := fun _ =>
    writeTree_tree (s := clearTree s) hn
  exact {
    memories := fun hs => { hu.memories hs with }
    padded := hu.padded
    err := errLegal_of_controlPart hu.control
    flags := fun _ => flagsOrdered_iff.mpr ⟨fun _ => rfl, fun _ => hnt ▸ hn⟩
    tree := fun _ => treeSound_congr (s := { writeTree (clearTree s) with vHuf := true })
      (congrArg (fun p => (true, p.2)) h.tree) hnt hsound
    host := hu.host
    config := hu.config
    rest := fun _ => atRest_of_parts hu.control hu.walk.trans }

/-- HUF_BUILD's body goes on with the new tree, over an alphabet of at most 65536 symbols. -/
theorem buildTree_ok {x : Unit} (h : buildTree s = .ok x t) :
    s.nSym.toNat ≤ 65536 ∧ t = writeTree (clearTree s) := by
  unfold buildTree at h
  dsimp only at h
  split at h
  · cases h
  · next hn =>
    split at h
    · cases h
    · cases h; exact ⟨Nat.le_of_not_lt hn, rfl⟩

/-- HUF_BUILD's body raises before it writes the tree. -/
theorem buildTree_raise {c : Cause} (h : buildTree s = .raise c t) : t = clearTree s := by
  unfold buildTree at h
  dsimp only at h
  split at h
  · cases h; rfl
  · split at h
    · cases h; rfl
    · cases h

theorem writeResults_works (x y : Word) : Works w s { s with res0 := x, res1 := y } := { Works.refl w s with }

theorem execHufBuild_keeps (h : execHufBuild s = .next t) : InstrKeeps false s t := by
  obtain ⟨_, hok | ⟨c, u, hr, rfl⟩⟩ := command_next h
  · obtain ⟨_, x, hb, hx⟩ := Res.bind_eq_ok.mp hok
    obtain ⟨hn, rfl⟩ := buildTree_ok hb
    cases hx
    exact built_keeps hn
      (writeResults_works (writeTree (clearTree s)).nleaf (writeTree (clearTree s)).nnode)
  · rcases Res.bind_eq_raise.mp hr with hb | ⟨_, _, _, hx⟩
    · rw [buildTree_raise hb]
      exact ((clearTree_unbuilt.afterSpoilTree _).works spoilRes01_works).takeFault_keeps c
    · cases hx

/-- What EST_SIZE does after its tree part (R193). -/
def estimate (s : State) : Res Unit :=
  (sfxAll s).bind fun _ s => withTree (fun tr s =>
    (Res.ofExcept (tableSize s tr) s).bind fun n s =>
      .ok () { s with res0 := lowWord (treeBits tr), res1 := highWord (treeBits tr), res2 := BitVec.ofNat 32 n,
                      vHuf := true }) s

theorem execEstSize_eq (s : State) :
    execEstSize s = command false (spoilEstSize s.countedIds) (fun s => (buildTree s).bind fun _ u => estimate u) s :=
  rfl

/-- It goes on only to mark the tree valid. -/
theorem estimate_ok {x : Unit} (h : estimate s = .ok x t) :
    ∃ u, Works false s u ∧ t = { u with vHuf := true } := by
  obtain ⟨_, u, hu, h⟩ := Res.bind_eq_ok.mp h
  have hsu := (sfxAll_works (w := false)).ok hu
  unfold withTree at h
  split at h
  · obtain ⟨n, v, hv, h⟩ := Res.bind_eq_ok.mp h
    obtain ⟨_, rfl⟩ := Res.ofExcept_eq_ok.mp hv
    cases h
    exact ⟨{ u with res0 := lowWord (treeBits _), res1 := highWord (treeBits _), res2 := BitVec.ofNat 32 n },
      { hsu with }, rfl⟩
  · cases h

theorem estimate_raise {c : Cause} (h : estimate s = .raise c t) : Works false s t := by
  rcases Res.bind_eq_raise.mp h with h | ⟨_, u, hu, h⟩
  · exact sfxAll_works.raise h
  · have hsu := (sfxAll_works (w := false)).ok hu
    unfold withTree at h
    split at h
    · rcases Res.bind_eq_raise.mp h with h | ⟨_, _, _, h⟩
      · rw [← (Res.ofExcept_eq_raise.mp h).2]; exact hsu
      · cases h
    · cases h

theorem Unbuilt.afterSpoilEstSize (h : Unbuilt s t) (ids : List Nat) : Unbuilt s (spoilEstSize ids s t) := by
  have hres := ((h.afterSpoilTree ids.length).works (spoilSfx_works (singleCells ids))).works spoilRes01_works
  exact hres.works { Works.refl false _ with }

theorem execEstSize_keeps (h : execEstSize s = .next t) : InstrKeeps false s t := by
  rw [execEstSize_eq] at h
  obtain ⟨_, hok | ⟨c, u, hr, rfl⟩⟩ := command_next h
  · obtain ⟨_, x, hb, hx⟩ := Res.bind_eq_ok.mp hok
    obtain ⟨hn, rfl⟩ := buildTree_ok hb
    obtain ⟨v, hv, rfl⟩ := estimate_ok hx
    exact built_keeps hn hv
  · have hu : Unbuilt s u := by
      rcases Res.bind_eq_raise.mp hr with hb | ⟨_, x, hb, hx⟩
      · rw [buildTree_raise hb]; exact clearTree_unbuilt
      · obtain ⟨_, rfl⟩ := buildTree_ok hb
        exact writeTree_unbuilt.works (estimate_raise hx)
    exact (hu.afterSpoilEstSize _).takeFault_keeps c

/-! ### Nodes, forms, every instruction -/

theorem nodeOutcome_keeps {f : State → Res Unit} (hf : (f s).Ends (Works true s))
    (h : nodeOutcome f s = .next t) : InstrKeeps true s t := by
  unfold nodeOutcome at h
  split at h
  · next hok => cases h; exact (hf.ok hok).instrKeeps nofun
  · next c u hr =>
    cases h
    exact ((hf.raise hr).trans (spoilDecode_works _ _)).takeFault_keeps c true
  · cases h

theorem vliForm_keeps (x n : Nat) : InstrKeeps true s { vliResult x n s with walk := Walk.none } := by
  refine Works.instrKeeps ?_ nofun
  exact { Works.refl true s with walk := nofun }

/-- Every instruction but RST keeps the invariants, the host's side and the configuration. -/
theorem exec_keeps {i : Instr} (hi : i ≠ .rst) (h : exec i s = .next t) :
    InstrKeeps (decide (i.layer ≠ .command)) s t := by
  cases i with
  | nop => exact execNop_keeps h
  | clr => exact execClr_keeps h
  | rst => exact absurd rfl hi
  | bwInit => exact execBwInit_keeps h
  | bwPut => exact execBwPut_keeps h
  | bwFlush => exact execBwFlush_keeps h
  | brSeek => exact execBrSeek_keeps h
  | brRead => exact execBrRead_keeps h
  | vliEnc => exact execVliEnc_keeps h
  | vliDec => exact execVliDec_keeps h
  | hufBuild => exact execHufBuild_keeps h
  | hufBits => exact execHufBits_keeps h
  | sfxFind => exact execSfxFind_keeps h
  | serSize => exact execSerSize_keeps h
  | serBuild => exact execSerBuild_keeps h
  | estSize => exact execEstSize_keeps h
  | encSym => exact execEncSym_keeps h
  | encBlock => exact execEncBlock_keeps h
  | decSym => exact execDecSym_keeps h
  | decBlock => exact execDecBlock_keeps h
  | leafB data => exact nodeOutcome_keeps (nodeLeafB_works data) h
  | leafS n => exact nodeOutcome_keeps (nodeLeafS_works n) h
  | leafX n => exact nodeOutcome_keeps (nodeLeafX_works n) h
  | br b => exact nodeOutcome_keeps (branch_works _ _) h
  | brl lo hi => exact nodeOutcome_keeps (branch_works _ _) h
  | vliShort b0 => cases h; exact vliForm_keeps _ _
  | vliLong lo hi => cases h; exact vliForm_keeps _ _

theorem exec_keepsInvariants {i : Instr} (h : exec i s = .next t) : KeepsInvariants s t := by
  by_cases hi : i = .rst
  · subst hi
    rw [execRst_next h]
    exact resetRegisters_keeps.toKeepsInvariants
  · exact (exec_keeps hi h).toKeepsInvariants

/-! ### The host and the step -/

theorem decodeCommand_layer {c : Byte} {i : Instr} (h : decodeCommand c = some i) : i.layer = .command := by
  unfold decodeCommand at h
  split at h <;> cases h <;> rfl

theorem cmdWrite_keeps {c : Byte} (h : cmdWrite c s = .next t) : StepKeeps s t := by
  unfold cmdWrite at h
  split at h
  · next i hd =>
    by_cases hi : i = .rst
    · subst hi
      rw [execRst_next h]
      exact resetRegisters_keeps
    · have hk := exec_keeps hi h
      exact { hk with rest := hk.rest (by simp [decodeCommand_layer hd]) }
  · have hk := illegalCommand_keeps c h
    exact { hk with rest := hk.rest rfl }

theorem whileIdle_next {f : State → State} : whileIdle f s = .next t ↔ s.busy = false ∧ f s = t := by
  unfold whileIdle
  split <;> simp_all

theorem whileIdle_keeps {f : State → State} (hf : StepKeeps s (f s)) (h : whileIdle f s = .next t) :
    StepKeeps s t := (whileIdle_next.mp h).2 ▸ hf

/-- A host access of a register that is answered runs. -/
theorem regAccess_next {no : Byte} {f : State → State} (h : regAccess no f s = .next t) : f s = t := by
  unfold regAccess at h
  split at h
  · exact (whileIdle_next.mp h).2
  · cases h; rfl

theorem returned_keeps (x : Word) : StepKeeps s (returned x s) :=
  ⟨⟨fun h => { h with }, id, id, id, id⟩, id⟩

theorem writeReg_keeps (r : Reg) (x : Word) : StepKeeps s (s.writeReg r x) := by
  cases r with
  | nSym => exact ⟨⟨fun h => { h with }, id, id, fun _ => rfl, fun _ => nofun⟩, id⟩
  | ssLen => exact ⟨⟨fun h => { h with }, id, id, fun _ => rfl, fun _ => nofun⟩, id⟩
  | cfg =>
    exact ⟨⟨fun h => { h with }, id, id, fun h => (Bool.and_eq_true_iff.mp h).2, id⟩, id⟩
  | _ => exact ⟨⟨fun h => { h with }, id, id, id, id⟩, id⟩

theorem setReg_keeps (no : Byte) (x : Word) : StepKeeps s (setReg no x s) := by
  unfold setReg
  split
  · exact writeReg_keeps _ x
  · exact ⟨⟨id, id, id, id, id⟩, id⟩

theorem externalReset_keeps : StepKeeps s (externalReset s) where
  memories h := {
    pk := h.pk.blur _ _ _, raw := h.raw.blur _ _ _, ss := h.ss.blur _ _ _, stLen := h.stLen.blur _ _ _
    stData := h.stData.blur _ _ _, freq := Memory.wf_blur _ _ _ _ h.freq
    node := Memory.wf_blur _ _ _ _ h.node, sfx := Memory.wf_blur _ _ _ _ h.sfx
    soff := Memory.wf_blur _ _ _ _ h.soff, code := Memory.wf_blur _ _ _ _ h.code
    fix := Memory.wf_blur _ _ _ _ h.fix }
  padded _ := rfl
  err _ := rfl
  flags _ := rfl
  tree _ := nofun
  rest _ := rfl

/-- The bytes of a symbol are listed below those of id 65536 (10_state R43). -/
theorem stDataKey_lt (id : BitVec 16) (k : Fin 255) : stDataKey id.toNat k.val < 255 * 65536 := by
  unfold stDataKey
  omega

theorem hostAct_keeps {a : HostAction} (h : hostAct a s = .next t) : StepKeeps s t := by
  cases a with
  | set no x =>
    simp only [hostAct] at h
    split at h
    · exact cmdWrite_keeps h
    · rw [← regAccess_next h]; exact setReg_keeps no x
  | get no => rw [← regAccess_next h]; exact returned_keeps _
  | writePk a x =>
    simp only [hostAct] at h
    refine whileIdle_keeps ?_ h
    exact ⟨⟨fun h => { h with pk := h.pk.write x a.isLt }, id, id, id, id⟩, id⟩
  | readPk a => exact whileIdle_keeps (returned_keeps _) h
  | writeRaw a x =>
    simp only [hostAct] at h
    refine whileIdle_keeps ?_ h
    exact ⟨⟨fun h => { h with raw := h.raw.write x a.isLt }, id, id, id, id⟩, id⟩
  | readRaw a => exact whileIdle_keeps (returned_keeps _) h
  | writeSs i x =>
    simp only [hostAct] at h
    refine whileIdle_keeps ?_ h
    exact ⟨⟨fun h => { h with ss := h.ss.write x i.isLt }, id, id, id, id⟩, id⟩
  | readSs i => exact whileIdle_keeps (returned_keeps _) h
  | writeStLen i x =>
    simp only [hostAct] at h
    refine whileIdle_keeps ?_ h
    exact ⟨⟨fun h => { h with stLen := h.stLen.write x i.isLt }, id, id, id, id⟩, id⟩
  | readStLen i => exact whileIdle_keeps (returned_keeps _) h
  | writeStData i k x =>
    simp only [hostAct] at h
    refine whileIdle_keeps ?_ h
    exact ⟨⟨fun h => { h with stData := h.stData.write x (stDataKey_lt i k) }, id, id, id, id⟩, id⟩
  | readStData i k => exact whileIdle_keeps (returned_keeps _) h
  | reset => cases h; exact externalReset_keeps

theorem hostStep_keeps (h : hostStep s = .next t) : StepKeeps s t := by
  unfold hostStep at h
  split at h
  · cases h; exact ⟨⟨id, id, id, id, id⟩, id⟩
  · have hk := hostAct_keeps h
    exact ⟨⟨fun h => hk.memories { h with }, hk.padded, hk.err, hk.flags, hk.tree⟩, hk.rest⟩

theorem walkStep_keeps (h : walkStep s = .next t) : KeepsInvariants s t := by
  have hf : (fetchNode s).Ends (Works true s) := fetchNode_works
  unfold walkStep at h
  split at h
  · next hok => exact (hf.ok hok).keepsInvariants.trans (exec_keepsInvariants h)
  · next c u hr =>
    cases h
    exact (((hf.raise hr).trans (spoilDecode_works _ _)).takeFault_keeps c true).toKeepsInvariants
  · cases h

theorem fetchVli_works : (fetchVli s).Ends (Works w s) :=
  (pkRead_works _).bind fun _ _ _ => (pkReadList_works _ _).bind fun _ u _ => .refl w u

theorem vliStep_keeps (h : vliStep s = .next t) : KeepsInvariants s t := by
  have hf : (fetchVli s).Ends (Works true s) := fetchVli_works
  unfold vliStep at h
  split at h
  · next hok => exact (hf.ok hok).keepsInvariants.trans (exec_keepsInvariants h)
  · next c u hr =>
    cases h
    exact (((hf.raise hr).trans spoilRes01_works).takeFault_keeps c true).toKeepsInvariants
  · cases h

/-- Every step keeps every invariant; one that begins between commands is an action of the host. -/
theorem step_keeps (h : step s = .next t) : StepKeeps s t := by
  have hrest : s.walk.phase ≠ .idle → atRest s = true → atRest t = true := fun hp hs =>
    absurd (congrArg Walk.phase (atRest_iff.mp hs).2) hp
  unfold step at h
  split at h
  · exact hostStep_keeps h
  · next hp => exact ⟨walkStep_keeps h, hrest (by simp [hp])⟩
  · next hp => exact ⟨walkStep_keeps h, hrest (by simp [hp])⟩
  · next hp => exact ⟨vliStep_keeps h, hrest (by simp [hp])⟩

end Sys2Proof.Machine
end

section
/-! SUPPORT. The invariants of 10_state and the host's side settled, from `step_keeps` and `exec_keeps`. -/

namespace Sys2Proof.Machine

open Sys2Proof.Safety

/-- Settles O22: a memory is only ever written below its capacity, filled or blurred. -/
theorem stepKeepsMemoriesCanonical : Obligations.StepKeepsMemoriesCanonical := by
  intro s t hc hr h
  exact memoriesFit_iff.mp ((step_keeps h).memories (memoriesFit_iff.mpr ⟨hc, hr⟩))

/-- Settles O23, invariant by invariant of `step_keeps`. -/
theorem stepKeepsRegisterInvariants : Obligations.StepKeepsRegisterInvariants := by
  intro s t h
  have hk := step_keeps h
  exact ⟨hk.padded, hk.err, hk.flags, hk.rest⟩

/-- Settles O24: HUF_BUILD and EST_SIZE set V_HUF only over the tree of `writeTree_tree`; no other instruction writes
the tree. -/
theorem stepKeepsTreeSound : Obligations.StepKeepsTreeSound :=
  fun _ _ hs h => (step_keeps h).tree hs

variable {s t : State}

/-- Every instruction, RST included, keeps the host's side (10_state R42, R43, 46_control R252). -/
theorem exec_hostPart {i : Instr} (h : exec i s = .next t) : hostPart t = hostPart s := by
  by_cases hi : i = .rst
  · subst hi
    rw [execRst_next h]
    rfl
  · exact (exec_keeps hi h).host

/-- Settles O16, by what every instruction keeps of the host's side and the configuration. -/
theorem instructionsKeepHostState : Obligations.InstructionsKeepHostState := by
  intro i s t h
  have hhost := exec_hostPart h
  simp only [hostPart, Prod.mk.injEq] at hhost
  refine ⟨hhost, fun hi => ?_⟩
  have hconfig := (exec_keeps hi h).config
  simpa only [configPart, Prod.mk.injEq] using hconfig

/-! ### A step runs what is decoded -/

theorem pkRead_below {a : Nat} (h : a < s.pkLen.toNat) : pkRead a s = .ok (s.pkByte a) s :=
  pkRead_ok.mpr ⟨h, rfl, rfl⟩

theorem pkBytes_succ (a n : Nat) (s : State) : pkBytes a (n + 1) s = s.pkByte a :: pkBytes (a + 1) n s := by
  simp [pkBytes, List.range_succ_eq_map, Nat.add_assoc, Nat.add_comm 1]

@[simp] theorem pkBytes_length (a n : Nat) (s : State) : (pkBytes a n s).length = n := by simp [pkBytes]

/-- Below PK_LEN the bytes of PK are read as they stand. -/
theorem pkReadList_below {a n : Nat} (h : a + n ≤ s.pkLen.toNat) :
    pkReadList a n s = .ok (pkBytes a n s) s := by
  induction n generalizing a with
  | zero => rfl
  | succ n ih =>
    rw [pkReadList, pkRead_below (by omega), Res.bind_ok, ih (by omega), pkBytes_succ]
    rfl

theorem decode_command_ok {c : Byte} {i : Instr} (h : decode .command [c] = .ok (i, [])) :
    decodeCommand c = some i := by
  simp only [decode] at h
  split at h
  · next j hj => cases h; exact hj
  · cases h

theorem nodeFixedLen_pos (h : Byte) : 0 < nodeFixedLen h := by
  unfold nodeFixedLen
  split
  · decide
  · split <;> decide

theorem vliFixedLen_pos (b0 : Byte) : 0 < vliFixedLen b0 := by
  unfold vliFixedLen
  split <;> decide

/-- Decoding exactly the bytes of a node's fixed part (30_encoding R92). -/
theorem decode_node_fixed {h : Byte} {bs : List Byte} (hlen : bs.length + 1 = nodeFixedLen h) :
    decode .node (h :: bs) = .ok (decodeNode h (bs.getD 0 0) (bs.getD 1 0), []) := by
  simp [decode, ← hlen]

/-- Decoding exactly the bytes of a VLI (30_encoding R91). -/
theorem decode_vli_fixed {b0 : Byte} {bs : List Byte} (hlen : bs.length + 1 = vliFixedLen b0) :
    decode .vli (b0 :: bs) = .ok (decodeVli b0 (bs.getD 0 0) (bs.getD 1 0), []) := by
  simp [decode, ← hlen]

/-- The fetch at a node reads what the decoder reads of its bytes (44_decode R217). -/
theorem fetchNode_eq_decode {i : Instr}
    (hlen : s.walk.pos + nodeFixedLen (s.pkByte s.walk.pos) ≤ s.pkLen.toNat)
    (htag : s.walk.phase = .emission → (s.pkByte s.walk.pos).toNat ≤ 2)
    (hd : decode .node (pkBytes s.walk.pos (nodeFixedLen (s.pkByte s.walk.pos)) s) = .ok (i, [])) :
    fetchNode s = .ok i s := by
  have hpos := nodeFixedLen_pos (s.pkByte s.walk.pos)
  obtain ⟨n, hn⟩ : ∃ n, nodeFixedLen (s.pkByte s.walk.pos) = n + 1 := ⟨_, (Nat.sub_add_cancel hpos).symm⟩
  have hleaf : ¬ (s.walk.phase = .emission ∧ 2 < (s.pkByte s.walk.pos).toNat) := fun ⟨hp, h2⟩ =>
    absurd (htag hp) (by omega)
  rw [hn, pkBytes_succ, decode_node_fixed (by rw [pkBytes_length, hn])] at hd
  cases hd
  rw [fetchNode, withNode, pkRead_below (by omega), Res.bind_ok, if_neg hleaf, hn, Nat.add_sub_cancel,
    pkReadList_below (by omega)]
  rfl

/-- The fetch at a VLI reads what the decoder reads of its bytes (41_varint R153). -/
theorem fetchVli_eq_decode {i : Instr}
    (hlen : s.walk.pos + vliFixedLen (s.pkByte s.walk.pos) ≤ s.pkLen.toNat)
    (hd : decode .vli (pkBytes s.walk.pos (vliFixedLen (s.pkByte s.walk.pos)) s) = .ok (i, [])) :
    fetchVli s = .ok i s := by
  have hpos := vliFixedLen_pos (s.pkByte s.walk.pos)
  obtain ⟨n, hn⟩ : ∃ n, vliFixedLen (s.pkByte s.walk.pos) = n + 1 := ⟨_, (Nat.sub_add_cancel hpos).symm⟩
  rw [hn, pkBytes_succ, decode_vli_fixed (by rw [pkBytes_length, hn])] at hd
  cases hd
  rw [fetchVli, pkRead_below (by omega), Res.bind_ok, hn, Nat.add_sub_cancel, pkReadList_below (by omega)]
  rfl

theorem step_of_idle (h : s.walk.phase = .idle) : step s = hostStep s := by
  simp only [step, h]

theorem step_of_walk (h : s.walk.phase = .descent ∨ s.walk.phase = .emission) : step s = walkStep s := by
  rcases h with h | h <;> simp only [step, h]

theorem step_of_vli (h : s.walk.phase = .vli) : step s = vliStep s := by
  simp only [step, h]

/-- A CMD write of a byte that is an opcode runs that command (10_state R22). -/
theorem hostAct_set_cmd {x : Word} {i : Instr} (h : decodeCommand (x.setWidth 8) = some i) :
    hostAct (.set 0 x) s = exec i s := by
  have hcmd : regOf 0 = some .cmd := rfl
  simp only [hostAct, hcmd, if_true, cmdWrite, h]

/-- Settles O4: the fetch of each layer answers what its decoder reads. -/
theorem stepRunsDecodedInstruction : Obligations.StepRunsDecodedInstruction := by
  refine ⟨fun s x rest i hp hs hd => ?_, fun s i hp hlen htag hd => ?_, fun s i hp hlen hd => ?_⟩
  · rw [step_of_idle hp, hostStep, hs]
    exact hostAct_set_cmd (decode_command_ok hd)
  · rw [step_of_walk hp, walkStep, fetchNode_eq_decode hlen htag hd]
  · rw [step_of_vli hp, vliStep, fetchVli_eq_decode hlen hd]

/-! ### Reset -/

/-- A blur from address 0 on leaves nothing known below its end. -/
theorem Memory.find_blur_below {α : Type} (m : Memory α) {n a : Nat} (gen : Nat) (h : a < n) :
    (m.blur 0 n gen).find a = none := by
  have hf := cellsFind_filter m.cells (fun c => decide (c < 0 ∨ n ≤ c)) a
  rw [if_neg (by simp; omega)] at hf
  rw [Memory.blur, if_pos (by omega)]
  exact hf

theorem reset_readReg (r : Reg) :
    State.reset.readReg r = match r with | .cfg => 0x02 | .root => 0xFFFFFFFF | _ => 0 := by
  cases r <;> rfl

theorem externalReset_readReg (s : State) (r : Reg) :
    (externalReset s).readReg r = State.reset.readReg r := by
  cases r <;> rfl

/-- Settles O6: the reset event blurs every memory and array over its whole range. -/
theorem resetRegistersAndMemories : Obligations.ResetRegistersAndMemories := by
  refine ⟨reset_readReg, fun a => ⟨rfl, rfl, rfl, rfl, rfl, rfl, rfl, rfl, rfl, rfl, rfl⟩, fun s => ?_⟩
  refine ⟨externalReset s, rfl, fun r => (externalReset_readReg s r).trans (reset_readReg r), rfl,
    fun a h => ?_, fun a h => Memory.find_blur_below _ _ h, fun a h => Memory.find_blur_below _ _ h,
    fun a h => ?_⟩
  · exact ⟨Memory.find_blur_below _ _ h, Memory.find_blur_below _ _ h, Memory.find_blur_below _ _ h⟩
  · exact ⟨Memory.find_blur_below _ _ h, Memory.find_blur_below _ _ h, Memory.find_blur_below _ _ h,
      Memory.find_blur_below _ _ h, Memory.find_blur_below _ _ h, Memory.find_blur_below _ _ h⟩

/-! ### The register file -/

/-- The RW registers (R21's access column). -/
def rwRegs : List Reg :=
  [.arg0, .arg1, .cfg, .tbase, .pkCap, .pkLen, .rawCap, .nSym, .ssLen, .dptr, .drem, .wlen, .rlen]

theorem isRw_eq {no : Byte} {r : Reg} (h : regOf no = some r) : isRw no = decide (r ∈ rwRegs) := by
  simp only [isRw, h]
  cases r <;> rfl

theorem isRw_of_none {no : Byte} (h : regOf no = none) : isRw no = false := by
  simp only [isRw, h]

theorem whileIdle_of_idle {f : State → State} (h : s.busy = false) : whileIdle f s = .next (f s) := by
  simp [whileIdle, h]

theorem whileIdle_of_busy {f : State → State} (h : s.busy = true) :
    whileIdle f s = .refused .hostAccessWhileBusy := by
  simp [whileIdle, h]

/-- A register access is answered, but an RW register's not while BUSY (R53, 20_memory R80). -/
theorem regAccess_answers {no : Byte} {f : State → State} (h : s.busy = false ∨ isRw no = false) :
    regAccess no f s = .next (f s) := by
  unfold regAccess
  split
  · next hrw => exact whileIdle_of_idle (h.resolve_right (by simp [hrw]))
  · rfl

theorem regAccess_refused {no : Byte} {f : State → State} (hb : s.busy = true) (h : isRw no = true) :
    regAccess no f s = .refused .hostAccessWhileBusy := by
  rw [regAccess, if_pos h, whileIdle_of_busy hb]

/-- A SET of a register other than CMD is a register access. -/
theorem hostAct_set {no : Byte} {x : Word} (h : regOf no ≠ some .cmd) :
    hostAct (.set no x) s = regAccess no (setReg no x) s := by
  simp only [hostAct, h, if_false]

theorem hostAct_get (no : Byte) : hostAct (.get no) s = regAccess no (fun s => returned (s.getReg no) s) s := rfl

theorem getReg_eq {no : Byte} {r : Reg} (h : regOf no = some r) (s : State) : s.getReg no = s.readReg r := by
  simp only [State.getReg, h]

theorem setReg_eq {no : Byte} {r : Reg} (h : regOf no = some r) (x : Word) (s : State) :
    setReg no x s = s.writeReg r x := by
  simp only [setReg, h]

/-- R registers and CMD ignore a write (R21). -/
theorem writeReg_of_not_rw {r : Reg} (h : r ∉ rwRegs) (x : Word) : s.writeReg r x = s := by
  cases r <;> simp [rwRegs, State.writeReg] at h ⊢

/-- The STATUS byte as a number: no field overlaps another (R23). -/
theorem readReg_status_toNat (s : State) : (s.readReg .status).toNat =
    s.busy.toNat + 2 * s.ovf.toNat + 4 * s.vHuf.toNat + 8 * s.vSer.toNat + 16 * s.err.toNat := by
  have h1 := s.busy.toNat_le
  have h2 := s.ovf.toNat_le
  have h3 := s.vHuf.toNat_le
  have h4 := s.vSer.toNat_le
  have h5 := s.err.isLt
  simp only [State.readReg, State.status, BitVec.toNat_setWidth, BitVec.toNat_ofNat]
  omega

/-- The registers whose SET does nothing but store the value: RW, but not CFG, N_SYM, SS_LEN (R23). -/
def plainRegs : List Reg := [.arg0, .arg1, .tbase, .pkCap, .pkLen, .rawCap, .dptr, .drem, .wlen, .rlen]

theorem readReg_writeReg_plain {r : Reg} (h : r ∈ plainRegs) (x : Word) (q : Reg) :
    (s.writeReg r x).readReg q = if q = r then x else s.readReg q := by
  simp only [plainRegs, List.mem_cons, List.not_mem_nil, or_false] at h
  rcases h with rfl | rfl | rfl | rfl | rfl | rfl | rfl | rfl | rfl | rfl <;> cases q <;> rfl

/-- The number of a register (R21). -/
def regNo : Reg → Byte
  | .cmd => 0x00 | .status => 0x01 | .einfo => 0x02 | .arg0 => 0x03 | .arg1 => 0x04
  | .res0 => 0x06 | .res1 => 0x07 | .res2 => 0x08
  | .cfg => 0x10 | .tbase => 0x11 | .pkCap => 0x12 | .pkLen => 0x13 | .rawCap => 0x14 | .nSym => 0x15
  | .ssLen => 0x16 | .dptr => 0x17 | .drem => 0x18 | .wlen => 0x19 | .rlen => 0x1A
  | .wptr => 0x20 | .wacc => 0x21 | .wcnt => 0x22 | .rpos => 0x23 | .rbit => 0x24 | .tp => 0x25
  | .root => 0x28 | .nnode => 0x29 | .nleaf => 0x2A | .tlen => 0x2B | .nfix => 0x2C

/-- The registers in R21's order. -/
def allRegs : List Reg :=
  [.cmd, .status, .einfo, .arg0, .arg1, .res0, .res1, .res2, .cfg, .tbase, .pkCap, .pkLen, .rawCap, .nSym,
    .ssLen, .dptr, .drem, .wlen, .rlen, .wptr, .wacc, .wcnt, .rpos, .rbit, .tp, .root, .nnode, .nleaf,
    .tlen, .nfix]

theorem mem_allRegs (r : Reg) : r ∈ allRegs := by
  cases r <;> decide

/-- The numbers of the registers, each with its own. -/
theorem regOf_eq_some {no : Byte} {r : Reg} : regOf no = some r ↔ no = regNo r := by
  constructor
  · intro h
    unfold regOf at h
    split at h <;> cases h <;> exact BitVec.eq_of_toNat_eq ‹no.toNat = _›
  · rintro rfl
    cases r <;> rfl

theorem mem_regTable {no : Byte} {r : Reg} :
    (no, r) ∈ allRegs.map (fun q => (regNo q, q)) ↔ no = regNo r := by
  simp only [List.mem_map, Prod.mk.injEq]
  exact ⟨fun ⟨q, _, hno, hq⟩ => hq ▸ hno.symm, fun h => ⟨r, mem_allRegs r, h.symm, rfl⟩⟩

/-- A GET that is answered (R21, R53). -/
theorem hostAct_get_answers {no : Byte} {r : Reg} (hr : regOf no = some r) (h : s.busy = false ∨ r ∉ rwRegs) :
    hostAct (.get no) s = .next { s with hostRead := s.readReg r } := by
  have hrw : s.busy = false ∨ isRw no = false := h.imp_right fun h => by simpa [isRw_eq hr] using h
  rw [hostAct_get, regAccess_answers hrw, getReg_eq hr]
  rfl

/-- A SET of a register other than CMD, while not BUSY (R21). -/
theorem hostAct_set_answers {no : Byte} {r : Reg} (hr : regOf no = some r) (hcmd : r ≠ .cmd) (x : Word)
    (h : s.busy = false ∨ r ∉ rwRegs) : hostAct (.set no x) s = .next (s.writeReg r x) := by
  have hrw : s.busy = false ∨ isRw no = false := h.imp_right fun h => by simpa [isRw_eq hr] using h
  rw [hostAct_set (by simpa [hr] using hcmd), regAccess_answers hrw, setReg_eq hr]

/-- R registers ignore a SET, at any time (R21). -/
theorem hostAct_set_ignored {no : Byte} {r : Reg} (hr : regOf no = some r) (hcmd : r ≠ .cmd) (x : Word)
    (h : r ∉ rwRegs) : hostAct (.set no x) s = .next s := by
  rw [hostAct_set_answers hr hcmd x (.inr h), writeReg_of_not_rw h]

/-- While BUSY the RW registers are out of the host's reach (20_memory R80). -/
theorem hostAct_rw_refused {no : Byte} {r : Reg} (hr : regOf no = some r) (x : Word) (hb : s.busy = true)
    (h : r ∈ rwRegs) : hostAct (.get no) s = .refused .hostAccessWhileBusy ∧
      hostAct (.set no x) s = .refused .hostAccessWhileBusy := by
  have hrw : isRw no = true := by simpa [isRw_eq hr] using h
  have hcmd : r ≠ .cmd := by rintro rfl; exact absurd h (by decide)
  rw [hostAct_get, hostAct_set (by simpa [hr] using hcmd)]
  exact ⟨regAccess_refused hb hrw, regAccess_refused hb hrw⟩

/-- A number that does not exist reads as 0 and ignores a SET (R21). -/
theorem hostAct_no_register {no : Byte} (hr : regOf no = none) (x : Word) :
    hostAct (.get no) s = .next { s with hostRead := 0 } ∧ hostAct (.set no x) s = .next s := by
  have hrw := isRw_of_none hr
  rw [hostAct_get, hostAct_set (by simp [hr]), regAccess_answers (.inr hrw), regAccess_answers (.inr hrw)]
  simp [returned, State.getReg, setReg, hr]

/-- The R registers are neither CMD nor RW (R21's access column). -/
theorem readOnlyRegs_not_rw : ∀ r ∈ [Reg.status, .einfo, .res0, .res1, .res2, .wptr, .wacc, .wcnt, .rpos, .rbit,
    .tp, .root, .nnode, .nleaf, .tlen, .nfix], r ≠ .cmd ∧ r ∉ rwRegs := by
  decide

/-- Settles O14, register by register of R21's table. -/
theorem hostRegisterAccess : Obligations.HostRegisterAccess := by
  refine ⟨fun no r => regOf_eq_some.trans mem_regTable.symm,
    fun s => ⟨readReg_status_toNat s, rfl, ?_⟩,
    fun s no r x hr => ⟨hostAct_get_answers hr, hostAct_rw_refused hr x,
      fun h hc => hostAct_set_ignored hr hc x h⟩,
    fun s no x hr => hostAct_no_register hr x,
    fun s no x hb => ⟨fun hr => ?_, fun hr => getReg_eq hr s, ?_⟩⟩
  · have hcfg : s.cfg.toNat < 2 ^ 32 := s.cfg.isLt.trans (by decide)
    have hacc : s.wacc.toNat < 2 ^ 32 := s.wacc.isLt.trans (by decide)
    have hcnt : s.wcnt.toNat < 2 ^ 32 := s.wcnt.isLt.trans (by decide)
    have hbit : s.rbit.toNat < 2 ^ 32 := s.rbit.isLt.trans (by decide)
    simp only [List.map_cons, List.map_nil, State.readReg, BitVec.toNat_setWidth, Nat.mod_eq_of_lt,
      hcfg, hacc, hcnt, hbit]
  · exact ⟨(hostAct_no_register hr x).2, by simp only [State.getReg, hr]⟩
  · refine ⟨fun r hmem hr => ?_, fun hr => hostAct_set_answers hr nofun x (.inl hb),
      fun hr => hostAct_set_answers hr nofun x (.inl hb), fun hr => hostAct_set_answers hr nofun x (.inl hb),
      fun r hmem hr => ?_⟩
    · obtain ⟨hcmd, hro⟩ := readOnlyRegs_not_rw r hmem
      exact hostAct_set_ignored hr hcmd x hro
    · have hcmd : r ≠ .cmd := by rintro rfl; exact absurd hmem (by decide)
      refine ⟨s.writeReg r x, hostAct_set_answers hr hcmd x (.inl hb), ?_, fun q hq => ?_⟩
      · rw [getReg_eq hr, readReg_writeReg_plain hmem, if_pos rfl]
      · rw [readReg_writeReg_plain hmem, if_neg hq]

/-! ### The host's cells -/

/-- Two bytes of ST_DATA are listed apart (R43). -/
theorem stDataKey_injective {id id' k k' : Nat} (hk : k < 255) (hk' : k' < 255)
    (h : stDataKey id k = stDataKey id' k') : id = id' ∧ k = k' := by
  unfold stDataKey at h
  omega

section Stores

variable (h : s.busy = false)

include h

theorem hostAct_writePk (a : Word) (x : Byte) :
    hostAct (.writePk a x) s = .next { s with pk := s.pk.write a.toNat x } := by
  simp only [hostAct, whileIdle_of_idle h]

theorem hostAct_writeRaw (a : Word) (x : Byte) :
    hostAct (.writeRaw a x) s = .next { s with raw := s.raw.write a.toNat x } := by
  simp only [hostAct, whileIdle_of_idle h]

theorem hostAct_writeSs (i : Word) (x : BitVec 17) :
    hostAct (.writeSs i x) s = .next { s with ss := s.ss.write i.toNat x } := by
  simp only [hostAct, whileIdle_of_idle h]

theorem hostAct_writeStLen (i : BitVec 16) (x : Byte) :
    hostAct (.writeStLen i x) s = .next { s with stLen := s.stLen.write i.toNat x } := by
  simp only [hostAct, whileIdle_of_idle h]

theorem hostAct_writeStData (i : BitVec 16) (k : Fin 255) (x : Byte) :
    hostAct (.writeStData i k x) s = .next { s with stData := s.stData.write (stDataKey i.toNat k.val) x } := by
  simp only [hostAct, whileIdle_of_idle h]

/-- The bits that the host reads of a cell of SS are the engine's token (R42). -/
theorem hostAct_readSs (a : Word) : ∃ w : Word, hostAct (.readSs a) s = .next { s with hostRead := w } ∧
    tokenOf (w.setWidth 17) = s.token a.toNat := by
  refine ⟨(s.ssBits a.toNat).setWidth 32, whileIdle_of_idle h, ?_⟩
  rw [BitVec.setWidth_setWidth_of_le _ (by decide), BitVec.setWidth_eq]
  rfl

/-- The host reads the length of a symbol as the engine does (R43). -/
theorem hostAct_readStLen (i : BitVec 16) : ∃ w : Word,
    hostAct (.readStLen i) s = .next { s with hostRead := w } ∧ w.toNat = s.symLen i.toNat := by
  have hlen : s.symLen i.toNat < 256 := BitVec.isLt _
  refine ⟨BitVec.ofNat 32 (s.symLen i.toNat), whileIdle_of_idle h, ?_⟩
  rw [BitVec.toNat_ofNat, Nat.mod_eq_of_lt (by omega)]

end Stores

/-- Settles O15, by the read after a write of each memory. -/
theorem hostLoadsMemories : Obligations.HostLoadsMemories := by
  refine ⟨fun s hb => ⟨fun a x => ?_, fun a x => ?_, fun i x => ?_, fun i x => ?_, fun i k x => ?_,
    fun a => ⟨whileIdle_of_idle hb, whileIdle_of_idle hb, hostAct_readSs hb a⟩, hostAct_readStLen hb,
    fun i k => whileIdle_of_idle hb⟩, fun s x hb hset hget hreset => ?_⟩
  · exact ⟨_, hostAct_writePk hb a x, Memory.read_write_same .., fun b h => Memory.read_write_other _ _ _ h⟩
  · exact ⟨_, hostAct_writeRaw hb a x, Memory.read_write_same .., fun b h => Memory.read_write_other _ _ _ h⟩
  · exact ⟨_, hostAct_writeSs hb i x, congrArg tokenOf (Memory.read_write_same ..),
      fun b h => congrArg tokenOf (Memory.read_write_other _ _ _ h)⟩
  · exact ⟨_, hostAct_writeStLen hb i x, congrArg BitVec.toNat (Memory.read_write_same ..),
      fun b h => congrArg BitVec.toNat (Memory.read_write_other _ _ _ h)⟩
  · exact ⟨_, hostAct_writeStData hb i k x, Memory.read_write_same .., fun b j hj h =>
      Memory.read_write_other _ _ _ fun e => h (Prod.ext_iff.mpr (stDataKey_injective hj k.isLt e))⟩
  · cases x with
    | set no v => exact absurd rfl (hset no v)
    | get no => exact absurd rfl (hget no)
    | reset => exact absurd rfl hreset
    | _ => simp only [hostAct, whileIdle_of_busy hb]

end Sys2Proof.Machine
end

section
/-! SUPPORT. The primitives of PK and RAW (20_memory R64, R67): the fetch of a node that PK_LEN or the format check
stops, and what emission does to RAW. -/

namespace Sys2Proof.Machine

open Sys2Proof.Safety

variable {s t : State} {u : Unit}

/-! ### The fetch of a node -/

theorem pkRead_beyond {a : Nat} (h : s.pkLen.toNat ≤ a) : pkRead a s = .raise (.rangeFault (a % 2 ^ 32)) s :=
  pkRead_raise.mpr ⟨h, rfl, rfl⟩

/-- Reading bytes in ascending order across PK_LEN raises at PK_LEN, the first one that is not valid. -/
theorem pkReadList_beyond {a n : Nat} (hlo : a ≤ s.pkLen.toNat) (hhi : s.pkLen.toNat < a + n) :
    pkReadList a n s = .raise (.rangeFault (s.pkLen.toNat % 2 ^ 32)) s := by
  induction n generalizing a with
  | zero => omega
  | succ n ih =>
    rw [pkReadList]
    by_cases ha : a = s.pkLen.toNat
    · rw [pkRead_beyond (by omega), Res.bind_raise, ha]
    · rw [pkRead_below (by omega), Res.bind_ok, ih (by omega) (by omega), Res.bind_raise]

theorem fetchNode_header_beyond (h : s.pkLen.toNat ≤ s.walk.pos) :
    fetchNode s = .raise (.rangeFault (s.walk.pos % 2 ^ 32)) s := by
  rw [fetchNode, withNode, pkRead_beyond h, Res.bind_raise]

/-- PK_LEN inside the fixed part: the header is read, the first byte at PK_LEN is not (44_decode R212 to R215). -/
theorem fetchNode_rest_beyond (hlo : s.walk.pos < s.pkLen.toNat)
    (hhi : s.pkLen.toNat < s.walk.pos + nodeFixedLen (s.pkByte s.walk.pos))
    (htag : s.walk.phase = .emission → (s.pkByte s.walk.pos).toNat ≤ 2) :
    fetchNode s = .raise (.rangeFault (s.pkLen.toNat % 2 ^ 32)) s := by
  have hleaf : ¬ (s.walk.phase = .emission ∧ 2 < (s.pkByte s.walk.pos).toNat) := fun ⟨hp, h2⟩ =>
    absurd (htag hp) (by omega)
  rw [fetchNode, withNode, pkRead_below hlo, Res.bind_ok, if_neg hleaf, pkReadList_beyond (by omega) (by omega),
    Res.bind_raise]

/-- The format check of the emission phase (R216). -/
theorem fetchNode_malformed (hlo : s.walk.pos < s.pkLen.toNat) (hp : s.walk.phase = .emission)
    (htag : 2 < (s.pkByte s.walk.pos).toNat) : fetchNode s = .raise (.malformedStream s.walk.pos) s := by
  rw [fetchNode, withNode, pkRead_below hlo, Res.bind_ok, if_pos ⟨hp, htag⟩]

/-- A fetch that raises ends the step by that fault. -/
theorem step_faults_of_fetchNode {c : Cause} (hp : s.walk.phase = .descent ∨ s.walk.phase = .emission)
    (h : fetchNode s = .raise c t) : FaultsWith (step s) c := by
  rw [step_of_walk hp, walkStep, h]
  exact ⟨_, rfl, rfl, rfl, rfl⟩

/-- EINFO has 32 bits: an address is recorded as it is modulo 2^32 (R267). -/
theorem faultsWith_rangeFault_mod {o : Host.Outcome State Fault Refusal} {a : Nat}
    (h : FaultsWith o (.rangeFault (a % 2 ^ 32))) : FaultsWith o (.rangeFault a) := by
  obtain ⟨t, ho, he, hi, hb⟩ := h
  exact ⟨t, ho, he, hi.trans (BitVec.eq_of_toNat_eq (by simp [Cause.info])), hb⟩

/-- Settles O5: the byte that stops the fetch is the header, or the one at PK_LEN inside the fixed part. -/
theorem nodeFetchFaults : Obligations.NodeFetchFaults := by
  intro s hp p
  have hrest (hlo : p < s.pkLen.toNat) (hhi : s.pkLen.toNat < p + nodeFixedLen (s.pkByte p))
      (htag : s.walk.phase = .emission → (s.pkByte p).toNat ≤ 2) :
      FaultsWith (step s) (.rangeFault s.pkLen.toNat) :=
    faultsWith_rangeFault_mod (step_faults_of_fetchNode hp (fetchNode_rest_beyond hlo hhi htag))
  refine ⟨fun h => ?_, fun hlen htag => ?_, fun hd hbrl => ?_, fun he hlo htag => ?_⟩
  · exact faultsWith_rangeFault_mod (step_faults_of_fetchNode hp (fetchNode_header_beyond h))
  · have hfix : nodeFixedLen (s.pkByte p) = 2 := if_pos htag
    exact hlen ▸ hrest (by omega) (by omega) fun _ => htag
  · have hfix : nodeFixedLen (s.pkByte p) = 3 := by rw [hbrl]; rfl
    have hdescent : s.walk.phase ≠ .emission := by rw [hd]; nofun
    exact ⟨fun hlen => hlen ▸ hrest (by omega) (by omega) (absurd · hdescent),
      fun hlen => hlen ▸ hrest (by omega) (by omega) (absurd · hdescent)⟩
  · exact step_faults_of_fetchNode hp (fetchNode_malformed hlo he htag)

/-! ### Emission -/

theorem rawEmit_block_done (v : Byte) (h : s.drem = 0) : rawEmit v s = .raise (.malformedStream s.tp.toNat) s := by
  rw [rawEmit, if_pos h]

theorem rawEmit_mismatch {v : Byte} (hd : s.drem ≠ 0) (hv : s.walk.verify = true)
    (h : s.rawCap.toNat ≤ s.dptr.toNat ∨ s.rawByte s.dptr.toNat ≠ v) :
    rawEmit v s = .raise (.verifyFail s.dptr.toNat) s := by
  rw [rawEmit, if_neg hd, if_pos hv, if_pos h]

/-- Emission goes through when the block has room for the byte and verify mode finds it in RAW. -/
theorem rawEmit_goes {v : Byte} (hd : s.drem ≠ 0)
    (hv : s.walk.verify = true → s.dptr.toNat < s.rawCap.toNat ∧ s.rawByte s.dptr.toNat = v) :
    ∃ t, rawEmit v s = .ok () t := by
  rw [rawEmit, if_neg hd]
  split
  · next hver =>
    obtain ⟨hcap, heq⟩ := hv hver
    exact ⟨_, if_neg (by rintro (h | h); exacts [by omega, h heq])⟩
  · exact ⟨_, rfl⟩

theorem rawEmit_raise {v : Byte} {c : Cause} (h : rawEmit v s = .raise c t) : t = s := by
  unfold rawEmit at h
  split at h
  · cases h; rfl
  · split at h
    · split at h <;> cases h
      rfl
    · cases h

/-- In verify mode emission leaves RAW, RLEN and OVF alone. -/
theorem rawEmit_verify {v : Byte} (h : rawEmit v s = .ok u t) (hv : s.walk.verify = true) :
    t.raw = s.raw ∧ t.rlen = s.rlen ∧ t.ovf = s.ovf := by
  unfold rawEmit at h
  split at h
  · cases h
  · split at h <;> cases h
    exact ⟨rfl, rfl, rfl⟩

/-- In write mode emission stores the byte below RAW_CAP, or else drops it with OVF set. -/
theorem rawEmit_write {v : Byte} (h : rawEmit v s = .ok u t) (hv : s.walk.verify = false) :
    t.raw = (if s.dptr.toNat < s.rawCap.toNat then s.raw.write s.dptr.toNat v else s.raw) ∧
      t.ovf = (if s.dptr.toNat < s.rawCap.toNat then s.ovf else true) ∧
      t.rlen = BitVec.ofNat 32 (max s.rlen.toNat (s.dptr.toNat + 1)) := by
  unfold rawEmit at h
  split at h
  · cases h
  · rw [if_neg (by simp [hv])] at h
    cases h
    split <;> exact ⟨rfl, rfl, rfl⟩

/-- In write mode emission writes the cell at DPTR, when it is below RAW_CAP, and no other. -/
theorem rawEmit_rawByte {v : Byte} (h : rawEmit v s = .ok u t) (hv : s.walk.verify = false) (b : Nat) :
    t.rawByte b = if b = s.dptr.toNat ∧ b < s.rawCap.toNat then v else s.rawByte b := by
  rw [State.rawByte, (rawEmit_write h hv).1]
  by_cases hb : b = s.dptr.toNat
  · subst hb
    split <;> simp [*, State.rawByte]
  · simp only [hb, false_and, if_false]
    split
    · exact Memory.read_write_other _ _ _ hb
    · rfl

/-- Emission of one byte is `EmitsBytes` of it, while DPTR has room. -/
theorem rawEmit_emitsBytes {v : Byte} (h : rawEmit v s = .ok u t) (hroom : s.dptr.toNat + 1 < 2 ^ 32) :
    EmitsBytes [v] s t := by
  obtain ⟨hd, hdptr, hdrem, hframe⟩ := rawEmit_ok h
  refine ⟨by rw [hdptr, List.length_singleton]; bv_omega, by rw [hdrem, List.length_singleton]; bv_omega,
    congrArg (·.walk.count) hframe, congrArg (·.walk.verify) hframe, ?_⟩
  split
  · next hv => exact rawEmit_verify h hv
  · next hv =>
    have hv' : s.walk.verify = false := by simpa using hv
    obtain ⟨_, hovf, hrlen⟩ := rawEmit_write h hv'
    refine ⟨fun b => ?_, ?_, ?_⟩
    · rw [rawEmit_rawByte h hv' b, List.length_singleton]
      by_cases hb : b = s.dptr.toNat
      · simp [hb]
      · rw [if_neg (by omega), if_neg (by omega)]
    · rw [hovf]
      split <;> simp <;> omega
    · have hlt := s.rlen.isLt
      rw [hrlen, if_neg (by simp), BitVec.toNat_ofNat, Nat.mod_eq_of_lt (by omega)]
      rfl

theorem mayEmit_singleton {v : Byte} : mayEmit [v] s = true ↔
    s.drem ≠ 0 ∧ s.dptr.toNat + 1 < 2 ^ 32 ∧
      (s.walk.verify = true → s.dptr.toNat < s.rawCap.toNat ∧ s.rawByte s.dptr.toNat = v) := by
  have hd : s.drem ≠ 0 ↔ 1 ≤ s.drem.toNat := by constructor <;> intro _ <;> bv_omega
  rw [hd]
  cases hv : s.walk.verify <;> simp [mayEmit, hv, and_assoc]

/-- Settles O32, outcome by outcome of emission. -/
theorem rawEmitChecksAndEmits : Obligations.RawEmitChecksAndEmits := by
  refine fun v s => ⟨rawEmit_block_done v, rawEmit_mismatch, fun h => ?_⟩
  obtain ⟨hd, hroom, hv⟩ := mayEmit_singleton.mp h
  obtain ⟨t, ht⟩ := rawEmit_goes hd hv
  exact ⟨t, ht, rawEmit_emitsBytes ht hroom⟩

end Sys2Proof.Machine
end

section
/-! SUPPORT. Where in PK and RAW a completed instruction can store: the writer's commands between WPTR before and after
(`Appends`), SER_BUILD in its table, a decode walk between DPTR before and after (`StoresRaw`), every other instruction
nowhere (`Still`). -/

namespace Sys2Proof.Machine

open Sys2Proof.Safety

variable {α β : Type} {s t u : State} {x : Unit}

/-! ### Pieces in sequence -/

section Pieces

variable {P : State → Prop}

/-- Pieces in sequence, judged by any transitive relation between the states before and after. -/
theorem Res.Ends.seq {R : State → State → Prop} (htrans : ∀ {s t u}, R s t → R t u → R s u) {r : Res α}
    {k : α → State → Res β} (h : r.Ends (R s)) (hk : ∀ a t, R s t → (k a t).Ends (R t)) :
    (r.bind k).Ends (R s) := by
  cases r with
  | ok a t => exact (hk a t h).mono fun _ => htrans h
  | raise c t => exact h
  | stop f => trivial

theorem Res.ofExcept_bind_ends {e : Except Cause α} {k : α → State → Res β} (h : P s)
    (hk : ∀ a, (k a s).Ends P) : ((Res.ofExcept e s).bind k).Ends P := by
  cases e with
  | ok a => exact hk a
  | error c => exact h

/-- Reading a byte of PK leaves the state to what follows. -/
theorem pkRead_bind_ends {a : Nat} {k : Byte → State → Res β} (h : P s) (hk : ∀ v, (k v s).Ends P) :
    ((pkRead a s).bind k).Ends P := by
  unfold pkRead
  split
  · exact h
  · exact hk _

theorem pkReadList_bind_ends {a n : Nat} {k : List Byte → State → Res β} (h : P s)
    (hk : ∀ bs, (k bs s).Ends P) : ((pkReadList a n s).bind k).Ends P := by
  induction n generalizing a k with
  | zero => exact hk []
  | succ n ih =>
    rw [pkReadList, Res.bind_assoc]
    refine pkRead_bind_ends h fun v => ?_
    rw [Res.bind_assoc]
    exact ih fun bs => hk (v :: bs)

theorem vliRead_bind_ends {a : Nat} {k : Nat × Nat → State → Res β} (h : P s) (hk : ∀ r, (k r s).Ends P) :
    ((vliRead a s).bind k).Ends P := by
  rw [vliRead, Res.bind_assoc]
  refine pkRead_bind_ends h fun b0 => ?_
  split
  · rw [Res.bind_assoc]
    refine pkRead_bind_ends h fun lo => ?_
    rw [Res.bind_assoc]
    exact pkRead_bind_ends h fun hi => hk _
  · exact hk _

/-- Fetching a node leaves the state to what the node does. -/
theorem withNode_ends {k : Byte → Byte → Byte → State → Res α} (h : P s)
    (hk : ∀ b b1 b2, (k b b1 b2 s).Ends P) : (withNode k s).Ends P := by
  refine pkRead_bind_ends h fun b => ?_
  split
  · exact h
  · exact pkReadList_bind_ends h fun _ => hk _ _ _

theorem withTree_ends {k : Option HTree → State → Res α} (hk : ∀ tr, (k tr s).Ends P) :
    (withTree k s).Ends P := by
  unfold withTree
  split
  · exact hk _
  · trivial

theorem withTree_ok {k : Option HTree → State → Res α} {a : α} (h : withTree k s = .ok a t) :
    ∃ tr, k tr s = .ok a t := by
  unfold withTree at h
  split at h
  · exact ⟨_, h⟩
  · cases h

theorem checkLength_ok {n : Nat} (h : checkLength n s = .ok x t) : s.dptr.toNat + n < 2 ^ 32 ∧ t = s := by
  unfold checkLength at h
  split at h <;> cases h
  exact ⟨by omega, rfl⟩

/-- `sfx_all` goes on with SFX written, and nothing else. -/
theorem sfxAll_ok (h : sfxAll s = .ok x t) : t = writeSfx s := by
  unfold sfxAll at h
  split at h
  · cases h
  · split at h <;> cases h
    rfl

/-! ### Completion -/

theorem Cause.code_ne_zero (c : Cause) : c.code ≠ 0 := by
  cases c <;> nofun

/-- A command that leaves no error has run its body to the end. -/
theorem command_completed {always : Bool} {spoil : State → State → State} {body : State → Res Unit}
    (h : command always spoil body s = .next t) (he : t.err = 0) : body s = .ok () t := by
  obtain ⟨_, hok | ⟨c, v, _, rfl⟩⟩ := command_next h
  · exact hok
  · exact absurd he c.code_ne_zero

theorem command_ends {always : Bool} {spoil : State → State → State} {body : State → Res Unit}
    (h : command always spoil body s = .next t) (he : t.err = 0) (hb : (body s).Ends P) : P t :=
  hb.ok (command_completed h he)

/-- A node by itself that leaves no error has done what the node does in a walk. -/
theorem nodeOutcome_completed {f : State → Res Unit} (h : nodeOutcome f s = .next t) (he : t.err = 0) :
    f s = .ok () t := by
  unfold nodeOutcome at h
  split at h
  · next hok => cases h; exact hok
  · next c v _ => cases h; exact absurd he c.code_ne_zero
  · cases h

end Pieces

/-! ### The writer -/

theorem pkWrite_pkByte_other {a b : Nat} (v : Byte) (h : b ≠ a) : (pkWrite a v s).pkByte b = s.pkByte b := by
  rw [State.pkByte, pkWrite_pk]
  split
  · exact Memory.read_write_other _ _ _ h
  · rfl

theorem pkWrite_raw (a : Nat) (v : Byte) (s : State) : (pkWrite a v s).raw = s.raw := by
  rw [pkWrite_frame]

/-- The writer's address only rises, and only bytes of PK that it passes are stored (40_bitio R130); RAW stays. -/
structure Appends (s t : State) : Prop where
  raw : t.raw = s.raw
  wptr_le : s.wptr.toNat ≤ t.wptr.toNat
  pkByte : ∀ a, a < s.wptr.toNat ∨ t.wptr.toNat ≤ a → t.pkByte a = s.pkByte a

theorem Appends.refl (s : State) : Appends s s := ⟨rfl, le_rfl, fun _ _ => rfl⟩

theorem Appends.trans (h : Appends s t) (h' : Appends t u) : Appends s u where
  raw := h'.raw.trans h.raw
  wptr_le := h.wptr_le.trans h'.wptr_le
  pkByte a ha := by
    have hst := h.wptr_le
    have htu := h'.wptr_le
    exact (h'.pkByte a (by omega)).trans (h.pkByte a (by omega))

theorem Res.Ends.thenAppends {r : Res α} {k : α → State → Res β} (h : r.Ends (Appends s))
    (hk : ∀ a t, Appends s t → (k a t).Ends (Appends t)) : (r.bind k).Ends (Appends s) :=
  Res.Ends.seq (R := Appends) Appends.trans h hk

theorem wAppend_appends (v : Byte) : (wAppend v s).Ends (Appends s) := by
  unfold wAppend
  split
  · exact .refl s
  · next hw =>
    have hnext : (s.wptr + 1).toNat = s.wptr.toNat + 1 := by bv_omega
    exact {
      raw := pkWrite_raw ..
      wptr_le := by dsimp only; omega
      pkByte := fun a ha => pkWrite_pkByte_other v (by dsimp only at ha; omega) }

theorem appendAll_appends (bs : List Byte) : (appendAll bs s).Ends (Appends s) := by
  induction bs generalizing s with
  | nil => exact .refl s
  | cons v rest ih => exact (wAppend_appends v).thenAppends fun _ _ _ => ih

theorem bitPut_appends (b : Bool) : (bitPut b s).Ends (Appends s) := by
  unfold bitPut
  dsimp only
  split
  · exact (wAppend_appends _).thenAppends fun _ t _ => { Appends.refl t with }
  · exact { Appends.refl s with }

theorem putAll_appends (bs : List Bool) : (putAll bs s).Ends (Appends s) := by
  induction bs generalizing s with
  | nil => exact .refl s
  | cons b rest ih => exact (bitPut_appends b).thenAppends fun _ _ _ => ih

theorem flush_appends : (flush s).Ends (Appends s) := by
  unfold flush
  split
  · exact .refl s
  · exact (wAppend_appends _).thenAppends fun _ t _ => { Appends.refl t with }

theorem encodeSym_appends (id : Nat) : (encodeSym id s).Ends (Appends s) := by
  unfold encodeSym
  split
  · exact .refl s
  · split
    · exact putAll_appends _
    · exact .refl s

theorem encodeRun_appends (n k : Nat) : (encodeRun n k s).Ends (Appends s) := by
  induction n generalizing k s with
  | zero => exact .refl s
  | succ n ih =>
    unfold encodeRun
    split
    · exact .refl s
    · exact (encodeSym_appends _).thenAppends fun _ _ _ => ih (k + 1)

/-- The commands that store in PK at the writer's address (R133, R134, 41_varint R152, 45_block_encode). -/
def writerCommands : List Instr := [.bwPut, .bwFlush, .vliEnc, .encSym, .encBlock]

theorem execVliEnc_appends (h : execVliEnc s = .next t) (he : t.err = 0) : Appends s t := by
  refine command_ends h he ?_
  split
  · exact Res.ofExcept_bind_ends (.refl s) fun bs => (appendAll_appends bs).thenAppends fun _ v _ =>
      { Appends.refl v with }
  · exact .refl s

theorem execEncSym_appends (h : execEncSym s = .next t) (he : t.err = 0) : Appends s t := by
  refine command_ends h he ?_
  split
  · exact encodeSym_appends _
  · exact .refl s

theorem execEncBlock_appends (h : execEncBlock s = .next t) (he : t.err = 0) : Appends s t := by
  refine command_ends h he ?_
  split
  · split
    · exact Res.Ends.thenAppends ((encodeRun_appends _ _).mono fun _ hr => { hr with }) fun _ _ _ =>
        flush_appends.thenAppends fun _ v _ => { Appends.refl v with }
    · exact .refl s
  · exact .refl s

/-- A command that moves the writer stores where it moves. -/
theorem exec_appends {i : Instr} (hi : i ∈ writerCommands) (h : exec i s = .next t) (he : t.err = 0) :
    Appends s t := by
  simp only [writerCommands, List.mem_cons, List.not_mem_nil, or_false] at hi
  rcases hi with rfl | rfl | rfl | rfl | rfl
  · exact command_ends h he (bitPut_appends _)
  · exact command_ends h he flush_appends
  · exact execVliEnc_appends h he
  · exact execEncSym_appends h he
  · exact execEncBlock_appends h he

/-! ### The table builder -/

/-- The offset fields of the fixups recorded lie in `lo .. hi - 1` (10_state R49). -/
def FixupsWithin (lo hi : Nat) (s : State) : Prop :=
  ∀ k < s.nfix.toNat, ∀ f, s.fix.find k = some f → lo ≤ f.pos ∧ f.pos + 2 ≤ hi

theorem FixupsWithin.mono {lo hi hi' : Nat} (h : FixupsWithin lo hi s) (hhi : hi ≤ hi') (hfix : t.fix = s.fix)
    (hn : t.nfix = s.nfix) : FixupsWithin lo hi' t := by
  intro k hk f hf
  obtain ⟨hlo, hpos⟩ := h k (hn ▸ hk) f (hfix ▸ hf)
  exact ⟨hlo, hpos.trans hhi⟩

/-- A fixup recorded at the writer's address, for the two bytes that are appended next (43_serializer R189). -/
theorem FixupsWithin.add {lo hi target : Nat} (h : FixupsWithin lo hi s) (hlo : lo ≤ s.wptr.toNat)
    (hhi : s.wptr.toNat + 2 ≤ hi) : FixupsWithin lo hi (addFixup target s) := by
  intro k hk f hf
  by_cases hnew : k = s.nfix.toNat
  · subst hnew
    rw [show (addFixup target s).fix = s.fix.write s.nfix.toNat ⟨s.wptr.toNat, target⟩ from rfl,
      Memory.find_write_same] at hf
    cases hf
    exact ⟨hlo, hhi⟩
  · have hold : k < s.nfix.toNat := by
      have hle : (s.nfix + 1).toNat ≤ s.nfix.toNat + 1 := by bv_omega
      have hk' : k < (s.nfix + 1).toNat := hk
      omega
    exact h k hold f ((Memory.find_write_other _ _ hnew).symm.trans hf)

/-- What pass 1 does: it appends, and the fixups that it records lie in what it has appended. -/
structure Builds (s t : State) : Prop extends Appends s t where
  fixups : ∀ lo ≤ s.wptr.toNat, FixupsWithin lo s.wptr.toNat s → FixupsWithin lo t.wptr.toNat t

theorem Builds.trans (h : Builds s t) (h' : Builds t u) : Builds s u where
  toAppends := h.toAppends.trans h'.toAppends
  fixups lo hlo hs := h'.fixups lo (hlo.trans h.wptr_le) (h.fixups lo hlo hs)

theorem appendAll_builds {bs : List Byte} (h : appendAll bs s = .ok x t) : Builds s t where
  toAppends := (appendAll_appends bs).ok h
  fixups _ _ hs := hs.mono ((appendAll_appends bs).ok h).wptr_le
    (congrArg State.fix (appendAll_frame bs h) :) (congrArg State.nfix (appendAll_frame bs h) :)

theorem appendAll_wptr (bs : List Byte) (h : appendAll bs s = .ok x t) :
    t.wptr.toNat = s.wptr.toNat + bs.length := by
  induction bs generalizing s with
  | nil => cases h; rfl
  | cons v rest ih =>
    obtain ⟨_, w, hw, h⟩ := Res.bind_eq_ok.mp h
    obtain ⟨hne, rfl⟩ := wAppend_ok.mp hw
    have hnext : (s.wptr + 1).toNat = s.wptr.toNat + 1 := by bv_omega
    rw [ih h, List.length_cons]
    dsimp only
    omega

/-- A placeholder's fixup and its two bytes (R189). -/
theorem addFixup_append_builds {target : Nat} {v w : Byte} (h : appendAll [v, w] (addFixup target s) = .ok x t) :
    Builds s t where
  toAppends := { (appendAll_appends [v, w]).ok h with }
  fixups lo hlo hs := by
    have hw : t.wptr.toNat = s.wptr.toNat + 2 :=
      appendAll_wptr (s := addFixup target s) [v, w] h
    have hwide : FixupsWithin lo t.wptr.toNat s := hs.mono (by omega) rfl rfl
    exact (hwide.add (target := target) hlo (by omega)).mono le_rfl
      (congrArg State.fix (appendAll_frame _ h) :) (congrArg State.nfix (appendAll_frame _ h) :)

theorem emitEntry_builds {id : Nat} (h : emitEntry id s = .ok x t) : Builds s t := by
  unfold emitEntry at h
  split at h
  · exact appendAll_builds h
  · split at h
    · exact appendAll_builds h
    · obtain ⟨_, w, hw, h⟩ := Res.bind_eq_ok.mp h
      exact (appendAll_builds hw).trans (addFixup_append_builds h)

theorem emitTree_builds (tr : HTree) {code : List Bool} (h : emitTree tr code s = .ok x t) : Builds s t := by
  induction tr generalizing code s t x with
  | leaf id c => exact { emitEntry_builds h with }
  | node a b iha ihb =>
    obtain ⟨_, _, ha, h⟩ := Res.bind_eq_ok.mp h
    obtain ⟨_, rfl⟩ := Res.ofExcept_eq_ok.mp ha
    obtain ⟨_, _, hb, h⟩ := Res.bind_eq_ok.mp h
    obtain ⟨_, rfl⟩ := Res.ofExcept_eq_ok.mp hb
    obtain ⟨_, _, hskip, h⟩ := Res.bind_eq_ok.mp h
    obtain ⟨_, rfl⟩ := Res.ofExcept_eq_ok.mp hskip
    obtain ⟨_, v, hv, h⟩ := Res.bind_eq_ok.mp h
    split at h
    · obtain ⟨_, w, hl, hr⟩ := Res.bind_eq_ok.mp h
      exact (appendAll_builds hv).trans ((ihb hl).trans (iha hr))
    · obtain ⟨_, w, hl, hr⟩ := Res.bind_eq_ok.mp h
      exact (appendAll_builds hv).trans ((iha hl).trans (ihb hr))

theorem emitTable_builds {tr : Option HTree} (h : emitTable tr s = .ok x t) : Builds s t := by
  cases tr with
  | none => cases h; exact ⟨.refl s, fun _ _ hs => hs⟩
  | some tr => exact emitTree_builds tr h

/-- Bytes of PK in `lo .. hi - 1` may be stored; every other byte, RAW and WPTR stay. -/
structure Patches (lo hi : Nat) (s t : State) : Prop where
  raw : t.raw = s.raw
  wptr : t.wptr = s.wptr
  pkByte : ∀ a, a < lo ∨ hi ≤ a → t.pkByte a = s.pkByte a

theorem Patches.refl (lo hi : Nat) (s : State) : Patches lo hi s s := ⟨rfl, rfl, fun _ _ => rfl⟩

theorem Patches.trans {lo hi : Nat} (h : Patches lo hi s t) (h' : Patches lo hi t u) : Patches lo hi s u :=
  ⟨h'.raw.trans h.raw, h'.wptr.trans h.wptr, fun a ha => (h'.pkByte a ha).trans (h.pkByte a ha)⟩

theorem pkWrite_patches {lo hi a : Nat} (v : Byte) (ha : lo ≤ a ∧ a < hi) : Patches lo hi s (pkWrite a v s) where
  raw := pkWrite_raw a v s
  wptr := by rw [pkWrite_frame]
  pkByte _ hb := pkWrite_pkByte_other v (by omega)

theorem pkWrite_nfix (a : Nat) (v : Byte) (s : State) : (pkWrite a v s).nfix = s.nfix := by
  rw [pkWrite_frame]

theorem FixupsWithin.afterPkWrite {lo hi a : Nat} {v : Byte} (h : FixupsWithin lo hi s) :
    FixupsWithin lo hi (pkWrite a v s) :=
  h.mono le_rfl (by rw [pkWrite_frame]) (pkWrite_nfix a v s)

/-- Pass 2 stores in the offset fields of the fixups alone (R191). -/
theorem resolveFixups_patches {lo hi k n : Nat} (h : FixupsWithin lo hi s) (hkn : k + n ≤ s.nfix.toNat) :
    (resolveFixups k n s).Ends (Patches lo hi s) := by
  induction n generalizing k s with
  | zero => exact .refl lo hi s
  | succ n ih =>
    unfold resolveFixups
    split
    · trivial
    · next f hf =>
      obtain ⟨hlo, hhi⟩ := h k (by omega) f hf
      dsimp only
      split
      · exact .refl lo hi s
      · have hpatch := (pkWrite_patches (s := s) (BitVec.ofNat 8 (s.soffOf f.target).toNat)
          (show lo ≤ f.pos ∧ f.pos < hi by omega)).trans
          (pkWrite_patches (BitVec.ofNat 8 ((s.soffOf f.target).toNat / 256))
            (show lo ≤ f.pos + 1 ∧ f.pos + 1 < hi by omega))
        exact (ih h.afterPkWrite.afterPkWrite (by rw [pkWrite_nfix, pkWrite_nfix]; omega)).mono fun _ => hpatch.trans

/-- SER_BUILD's own part stores from TBASE up to where it leaves the writer (R190). -/
theorem buildTable_appends {tr : Option HTree} {est : Nat} (h : buildTable tr est s = .ok x t) :
    Appends { s with wptr := s.tbase } t := by
  obtain ⟨_, v, hv, h⟩ := Res.bind_eq_ok.mp h
  have hbuilt := emitTable_builds hv
  split at h
  · cases h
  · obtain ⟨_, w, hw, h⟩ := Res.bind_eq_ok.mp h
    cases h
    have hwithin := hbuilt.fixups s.tbase.toNat le_rfl fun k hk => absurd hk (Nat.not_lt_zero k)
    have hpatched := (resolveFixups_patches hwithin (Nat.zero_add _).le).ok hw
    have hle : s.tbase.toNat ≤ v.wptr.toNat := hbuilt.wptr_le
    have hwptr : w.wptr = v.wptr := hpatched.wptr
    exact {
      raw := hpatched.raw.trans hbuilt.raw
      wptr_le := hwptr ▸ hle
      pkByte := fun a ha => (hpatched.pkByte a (hwptr ▸ ha)).trans (hbuilt.pkByte a (hwptr ▸ ha)) }

/-- SER_BUILD, which places the writer at TBASE, stores in its table alone (R190). -/
theorem execSerBuild_appends (h : execSerBuild s = .next t) (he : t.err = 0) :
    Appends { s with wptr := s.tbase } t := by
  have hb := command_completed h he
  split at hb
  · obtain ⟨_, v, hv, hb⟩ := Res.bind_eq_ok.mp hb
    rw [sfxAll_ok hv] at hb
    obtain ⟨tr, hb⟩ := withTree_ok hb
    obtain ⟨_, _, hest, hb⟩ := Res.bind_eq_ok.mp hb
    obtain ⟨_, rfl⟩ := Res.ofExcept_eq_ok.mp hest
    exact { buildTable_appends hb with }
  · cases hb

end Sys2Proof.Machine
end

section
/-! SUPPORT. What a decode walk stores in RAW (`StoresRaw`, 20_memory R67), which instructions store nothing (`Still`),
and the frames of PK and RAW over every instruction. -/

namespace Sys2Proof.Machine

open Sys2Proof.Safety

variable {α β : Type} {s t u : State} {x : Unit}

/-! ### The decode walk -/

/-- DPTR rises by what DREM loses, and only bytes of RAW that it passes are stored. -/
structure CursorMoves (s t : State) : Prop where
  total : t.dptr.toNat + t.drem.toNat = s.dptr.toNat + s.drem.toNat
  dptr_le : s.dptr.toNat ≤ t.dptr.toNat
  rawByte : ∀ a, a < s.dptr.toNat ∨ t.dptr.toNat ≤ a → t.rawByte a = s.rawByte a

/-- What emission in a mode may store: nothing in PK; in verify mode nothing in RAW; in write mode only where DPTR
passes, as long as the block ends within 32 bits (20_memory R67, 44_decode R220). -/
structure StoresRaw (verify : Bool) (s t : State) : Prop where
  pk : t.pk = s.pk
  raw : verify = true → t.raw = s.raw
  moves : s.dptr.toNat + s.drem.toNat < 2 ^ 32 → CursorMoves s t

theorem StoresRaw.refl (verify : Bool) (s : State) : StoresRaw verify s s :=
  ⟨rfl, fun _ => rfl, fun _ => ⟨rfl, le_rfl, fun _ _ => rfl⟩⟩

theorem CursorMoves.trans (h : CursorMoves s t) (h' : CursorMoves t u) : CursorMoves s u where
  total := h'.total.trans h.total
  dptr_le := h.dptr_le.trans h'.dptr_le
  rawByte a ha := by
    have hst := h.dptr_le
    have htu := h'.dptr_le
    exact (h'.rawByte a (by omega)).trans (h.rawByte a (by omega))

theorem StoresRaw.trans {verify : Bool} (h : StoresRaw verify s t) (h' : StoresRaw verify t u) :
    StoresRaw verify s u where
  pk := h'.pk.trans h.pk
  raw hv := (h'.raw hv).trans (h.raw hv)
  moves hs := (h.moves hs).trans (h'.moves ((h.moves hs).total ▸ hs))

/-- What a piece of the walk does: it emits in the walk's mode, and keeps that mode. -/
structure Emits (s t : State) : Prop extends StoresRaw s.walk.verify s t where
  mode : t.walk.verify = s.walk.verify

theorem Emits.refl (s : State) : Emits s s := ⟨.refl _ s, rfl⟩

theorem Emits.trans (h : Emits s t) (h' : Emits t u) : Emits s u where
  toStoresRaw := h.toStoresRaw.trans (h.mode ▸ h'.toStoresRaw)
  mode := h'.mode.trans h.mode

/-- What emission and the walk's mode depend on. -/
def emissionPart (s : State) := (s.pk, s.raw, s.dptr, s.drem, s.walk.verify)

theorem Emits.of_part (h : emissionPart t = emissionPart s) : Emits s t := by
  simp only [emissionPart, Prod.mk.injEq] at h
  obtain ⟨hpk, hraw, hdptr, hdrem, hmode⟩ := h
  refine ⟨⟨hpk, fun _ => hraw, fun _ => ⟨by rw [hdptr, hdrem], hdptr ▸ le_rfl, fun a _ => ?_⟩⟩, hmode⟩
  rw [State.rawByte, hraw]
  rfl

theorem Res.Ends.thenEmits {r : Res α} {k : α → State → Res β} (h : r.Ends (Emits s))
    (hk : ∀ a t, Emits s t → (k a t).Ends (Emits t)) : (r.bind k).Ends (Emits s) :=
  Res.Ends.seq (R := Emits) Emits.trans h hk

/-- One byte emitted moves DPTR and DREM by one and stores in RAW at DPTR at most. -/
theorem rawEmit_cursorMoves {v : Byte} (h : rawEmit v s = .ok x t)
    (hroom : s.dptr.toNat + s.drem.toNat < 2 ^ 32) : CursorMoves s t := by
  obtain ⟨hd, hdptr, hdrem, _⟩ := rawEmit_ok h
  have hdp : t.dptr.toNat = s.dptr.toNat + 1 := by rw [hdptr]; bv_omega
  have hdr : t.drem.toNat + 1 = s.drem.toNat := by rw [hdrem]; bv_omega
  refine ⟨by omega, by omega, fun a ha => ?_⟩
  cases hv : s.walk.verify with
  | true => rw [State.rawByte, (rawEmit_verify h hv).1]; rfl
  | false => rw [rawEmit_rawByte h hv, if_neg (by omega)]

theorem rawEmit_emits (v : Byte) : (rawEmit v s).Ends (Emits s) := by
  cases hr : rawEmit v s with
  | ok _ t =>
    obtain ⟨_, _, _, hframe⟩ := rawEmit_ok hr
    exact {
      pk := (congrArg State.pk hframe :)
      raw := fun hv => (rawEmit_verify hr hv).1
      moves := rawEmit_cursorMoves hr
      mode := (congrArg (·.walk.verify) hframe :) }
  | raise c t => rw [rawEmit_raise hr]; exact .refl s
  | stop f => trivial

theorem emitBytes_emits (a n : Nat) : (emitBytes a n s).Ends (Emits s) := by
  induction n generalizing a s with
  | zero => exact .refl s
  | succ n ih =>
    exact pkRead_bind_ends (.refl s) fun v => (rawEmit_emits v).thenEmits fun _ _ _ => ih (a + 1)

theorem branch_emits (l r : Nat) : (branch l r s).Ends (Emits s) := by
  unfold branch
  split
  · exact .refl s
  · dsimp only
    rw [bitRead_frame]
    exact Emits.of_part rfl

theorem setTp_emits : Emits s (setTp s) := .of_part rfl

theorem endSymbol_emits : Emits s (endSymbol s) := .of_part rfl

theorem nodeLeafB_emits (data : Byte) : (nodeLeafB data s).Ends (Emits s) :=
  Res.Ends.mono ((rawEmit_emits data).thenEmits fun _ _ _ => endSymbol_emits) fun _ => setTp_emits.trans

theorem nodeLeafS_emits (n : Byte) : (nodeLeafS n s).Ends (Emits s) :=
  Res.Ends.mono ((emitBytes_emits _ _).thenEmits fun _ _ _ => endSymbol_emits) fun _ => setTp_emits.trans

theorem nodeLeafX_emits (n : Byte) : (nodeLeafX n s).Ends (Emits s) := by
  refine Res.Ends.mono ((emitBytes_emits _ _).thenEmits fun _ u _ => ?_) fun _ => setTp_emits.trans
  exact pkRead_bind_ends (.refl u) fun _ => pkRead_bind_ends (.refl u) fun _ =>
    Emits.of_part rfl

theorem nodeStep_emits : (nodeStep s).Ends (Emits s) := by
  refine withNode_ends (.refl s) fun b b1 b2 => ?_
  unfold caseNode
  split
  · exact nodeLeafB_emits b1
  · split
    · exact nodeLeafS_emits b1
    · split
      · exact nodeLeafX_emits b1
      · split
        · exact branch_emits _ _
        · exact branch_emits _ _

theorem runWalk_emits (k : Nat) : (runWalk k s).Ends (Emits s) := by
  induction k generalizing s with
  | zero => trivial
  | succ k ih =>
    refine nodeStep_emits.thenEmits fun _ t _ => ?_
    split
    · exact .refl t
    · exact ih

/-- One symbol is emitted in the mode that its walk is started in (44_decode R217). -/
theorem decSymbol_storesRaw (verify : Bool) : (decSymbol verify s).Ends (StoresRaw verify s) := by
  have hwalk : (runWalk (walkBound s) (startWalk verify s)).Ends (StoresRaw verify s) :=
    (runWalk_emits _).mono fun _ h => ⟨h.pk, h.raw, fun hs => { h.moves hs with }⟩
  exact Res.Ends.seq (R := StoresRaw verify) StoresRaw.trans hwalk fun _ t _ => .refl verify t

theorem decBlockLoop_storesRaw (verify : Bool) (k total : Nat) :
    (decBlockLoop verify k total s).Ends (StoresRaw verify s) := by
  induction k generalizing total s with
  | zero => trivial
  | succ k ih =>
    unfold decBlockLoop
    split
    · exact .refl verify s
    · exact Res.Ends.seq (R := StoresRaw verify) StoresRaw.trans (decSymbol_storesRaw verify) fun n _ _ =>
        ih (total + n)

/-- DEC_SYM, its length checked (R220), stores what its walk stores. -/
theorem execDecSym_storesRaw (h : execDecSym s = .next t) (he : t.err = 0) :
    s.dptr.toNat + s.drem.toNat < 2 ^ 32 ∧ StoresRaw s.arg0Bit s t := by
  obtain ⟨_, v, hv, hb⟩ := Res.bind_eq_ok.mp (command_completed h he)
  obtain ⟨hroom, rfl⟩ := checkLength_ok hv
  obtain ⟨n, w, hw, hb⟩ := Res.bind_eq_ok.mp hb
  cases hb
  have hst := (decSymbol_storesRaw _).ok hw
  exact ⟨hroom, hst.pk, hst.raw, fun hs => { hst.moves hs with }⟩

/-- DEC_BLOCK, its length checked (R220), stores what its walks store. -/
theorem execDecBlock_storesRaw (h : execDecBlock s = .next t) (he : t.err = 0) :
    s.dptr.toNat + s.arg0.toNat < 2 ^ 32 ∧ StoresRaw s.arg1Bit { s with drem := s.arg0 } t := by
  obtain ⟨_, v, hv, hb⟩ := Res.bind_eq_ok.mp (command_completed h he)
  obtain ⟨hroom, rfl⟩ := checkLength_ok hv
  obtain ⟨n, w, hw, hb⟩ := Res.bind_eq_ok.mp hb
  cases hb
  have hst := (decBlockLoop_storesRaw _ _ _).ok hw
  exact ⟨hroom, hst.pk, hst.raw, fun hs => { hst.moves hs with }⟩

/-- A node by itself emits in the mode of the walk. -/
theorem exec_node_emits {i : Instr} (hi : i.layer = .node) (h : exec i s = .next t) (he : t.err = 0) :
    Emits s t := by
  cases i with
  | leafB data => exact (nodeLeafB_emits data).ok (nodeOutcome_completed h he)
  | leafS n => exact (nodeLeafS_emits n).ok (nodeOutcome_completed h he)
  | leafX n => exact (nodeLeafX_emits n).ok (nodeOutcome_completed h he)
  | br b => exact (branch_emits _ _).ok (nodeOutcome_completed h he)
  | brl lo hi => exact (branch_emits _ _).ok (nodeOutcome_completed h he)
  | _ => cases hi

/-! ### Instructions that store nothing -/

/-- PK and RAW stay. -/
structure Still (s t : State) : Prop where
  pk : t.pk = s.pk
  raw : t.raw = s.raw

theorem Still.refl (s : State) : Still s s := ⟨rfl, rfl⟩

theorem Still.trans (h : Still s t) (h' : Still t u) : Still s u := ⟨h'.pk.trans h.pk, h'.raw.trans h.raw⟩

theorem bitRead_still : Still s (bitRead s).2 := by
  rw [bitRead_frame]
  exact { Still.refl s with }

theorem skipBits_still (n : Nat) : Still s (skipBits n s) := by
  rw [skipBits_frame]
  exact { Still.refl s with }

theorem branch_still {l r : Nat} (h : branch l r s = .ok x t) : Still s t := by
  obtain ⟨_, hframe⟩ := branch_frame h
  exact ⟨(congrArg State.pk hframe :), (congrArg State.raw hframe :)⟩

theorem sfxAll_still : (sfxAll s).Ends (Still s) := by
  unfold sfxAll
  split
  · exact .refl s
  · split
    · exact .refl s
    · exact { Still.refl s with }

theorem estimate_still : (estimate s).Ends (Still s) :=
  Res.Ends.seq (R := Still) Still.trans sfxAll_still fun _ t _ => withTree_ends fun _ =>
    Res.ofExcept_bind_ends (.refl t) fun _ => { Still.refl t with }

theorem execNop_still (h : execNop s = .next t) (he : t.err = 0) : Still s t :=
  command_ends h he (Still.refl s)

theorem execBwInit_still (h : execBwInit s = .next t) (he : t.err = 0) : Still s t :=
  command_ends h he { Still.refl s with }

theorem execHufBuild_still (h : execHufBuild s = .next t) (he : t.err = 0) : Still s t := by
  obtain ⟨_, v, hv, hb⟩ := Res.bind_eq_ok.mp (command_completed h he)
  obtain ⟨_, rfl⟩ := buildTree_ok hv
  cases hb
  exact { Still.refl s with }

theorem execEstSize_still (h : execEstSize s = .next t) (he : t.err = 0) : Still s t := by
  rw [execEstSize_eq] at h
  obtain ⟨_, v, hv, hb⟩ := Res.bind_eq_ok.mp (command_completed h he)
  obtain ⟨_, rfl⟩ := buildTree_ok hv
  exact { estimate_still.ok hb with }

theorem execBrSeek_still (h : execBrSeek s = .next t) (he : t.err = 0) : Still s t := by
  cases command_completed h he
  exact { skipBits_still (s := { s with rpos := s.arg0, rbit := 0 }) s.seekBits with }

theorem execBrRead_still (h : execBrRead s = .next t) (he : t.err = 0) : Still s t := by
  cases command_completed h he
  exact { bitRead_still (s := s) with }

theorem execVliDec_still (h : execVliDec s = .next t) (he : t.err = 0) : Still s t :=
  command_ends h he (vliRead_bind_ends (.refl s) fun _ => { Still.refl s with })

theorem execHufBits_still (h : execHufBits s = .next t) (he : t.err = 0) : Still s t := by
  refine command_ends h he ?_
  split
  · exact withTree_ends fun _ => { Still.refl s with }
  · exact .refl s

theorem execSfxFind_still (h : execSfxFind s = .next t) (he : t.err = 0) : Still s t := by
  refine command_ends h he ?_
  split
  · split
    · exact .refl s
    · split
      · exact .refl s
      · exact { Still.refl s with }
  · exact .refl s

theorem execSerSize_still (h : execSerSize s = .next t) (he : t.err = 0) : Still s t := by
  refine command_ends h he ?_
  split
  · exact Res.Ends.seq (R := Still) Still.trans sfxAll_still fun _ v _ => withTree_ends fun _ =>
      Res.ofExcept_bind_ends (.refl v) fun _ => { Still.refl v with }
  · exact .refl s

/-- The instructions whose rules list neither PK nor RAW as written. -/
def storesNothing : Instr → Bool
  | .bwPut | .bwFlush | .vliEnc | .encSym | .encBlock | .serBuild | .decSym | .decBlock | .leafB _ | .leafS _
  | .leafX _ => false
  | _ => true

theorem exec_still {i : Instr} (hi : storesNothing i = true) (h : exec i s = .next t) (he : t.err = 0) :
    Still s t := by
  cases i with
  | nop => exact execNop_still h he
  | clr => rw [execClr_next h]; exact { Still.refl s with }
  | rst => rw [execRst_next h]; exact { Still.refl s with }
  | bwInit => exact execBwInit_still h he
  | brSeek => exact execBrSeek_still h he
  | brRead => exact execBrRead_still h he
  | vliDec => exact execVliDec_still h he
  | hufBuild => exact execHufBuild_still h he
  | hufBits => exact execHufBits_still h he
  | sfxFind => exact execSfxFind_still h he
  | serSize => exact execSerSize_still h he
  | estSize => exact execEstSize_still h he
  | br b => exact branch_still (nodeOutcome_completed h he)
  | brl lo hi => exact branch_still (nodeOutcome_completed h he)
  | vliShort b0 => cases h; exact { Still.refl s with }
  | vliLong lo hi => cases h; exact { Still.refl s with }
  | bwPut | bwFlush | vliEnc | encSym | encBlock | serBuild | decSym | decBlock | leafB | leafS | leafX =>
    cases hi

/-! ### The frames of PK and RAW -/

/-- Besides the commands that write PK and those that write nothing there are the walk's: the decode commands and the
nodes. -/
theorem storesNothing_or_writesPk {i : Instr} (hn : i.layer ≠ .node) (hs : i ≠ .decSym) (hb : i ≠ .decBlock) :
    storesNothing i = true ∨ i ∈ writerCommands ∨ i = .serBuild := by
  cases i with
  | bwPut | bwFlush | vliEnc | encSym | encBlock => exact .inr (.inl (by decide))
  | serBuild => exact .inr (.inr rfl)
  | decSym => exact absurd rfl hs
  | decBlock => exact absurd rfl hb
  | leafB | leafS | leafX => exact absurd rfl hn
  | _ => exact .inl rfl

/-- PK is written by the writer's commands and SER_BUILD alone. -/
theorem exec_pk {i : Instr} (hw : i ∉ writerCommands) (hb : i ≠ .serBuild) (h : exec i s = .next t)
    (he : t.err = 0) : t.pk = s.pk := by
  by_cases hn : i.layer = .node
  · exact (exec_node_emits hn h he).pk
  by_cases hsym : i = .decSym
  · subst hsym
    exact (execDecSym_storesRaw h he).2.pk
  by_cases hblock : i = .decBlock
  · subst hblock
    exact (execDecBlock_storesRaw h he).2.pk
  rcases storesNothing_or_writesPk hn hsym hblock with hi | hi | hi
  · exact (exec_still hi h he).pk
  · exact absurd hi hw
  · exact absurd hi hb

/-- RAW is written by the decode walk alone. -/
theorem exec_raw {i : Instr} (hi : storesNothing i = true ∨ i ∈ writerCommands ∨ i = .serBuild)
    (h : exec i s = .next t) (he : t.err = 0) : t.raw = s.raw := by
  rcases hi with hi | hi | rfl
  · exact (exec_still hi h he).raw
  · exact (exec_appends hi h he).raw
  · exact (execSerBuild_appends h he).raw

/-- Settles O19: the writer's commands and SER_BUILD append, every other instruction leaves PK alone. -/
theorem completedInstructionsKeepOtherPk : Obligations.CompletedInstructionsKeepOtherPk := by
  intro i s t h he
  refine ⟨fun hi => (exec_appends hi h he).pkByte, fun hi => ?_, fun hi a => ?_⟩
  · subst hi
    exact (execSerBuild_appends h he).pkByte
  · have hpk : t.pk = s.pk := by
      refine exec_pk (fun hw => hi (List.mem_append_left [.serBuild] hw)) ?_ h he
      rintro rfl
      exact hi (by decide)
    rw [State.pkByte, hpk]
    rfl

/-- Settles O20: only emission stores in RAW, in write mode, where DPTR passes. -/
theorem completedInstructionsKeepOtherRaw : Obligations.CompletedInstructionsKeepOtherRaw := by
  intro i s t h he
  refine ⟨fun hi => ?_, fun hi => exec_raw ?_ h he, fun hi => ?_⟩
  · rcases hi with rfl | rfl | ⟨hnode, hroom⟩
    · obtain ⟨hroom, hst⟩ := execDecSym_storesRaw h he
      exact (hst.moves hroom).rawByte
    · obtain ⟨hroom, hst⟩ := execDecBlock_storesRaw h he
      exact (hst.moves hroom).rawByte
    · exact ((exec_node_emits hnode h he).moves hroom).rawByte
  · rcases hi with hvli | ⟨hcmd, hsym, hblock⟩ | ⟨b, rfl⟩ | ⟨lo, hi, rfl⟩
    · exact storesNothing_or_writesPk (by rw [hvli]; nofun) (by rintro rfl; cases hvli) (by rintro rfl; cases hvli)
    · exact storesNothing_or_writesPk (by rw [hcmd]; nofun) hsym hblock
    · exact .inl rfl
    · exact .inl rfl
  · rcases hi with ⟨rfl, hv⟩ | ⟨rfl, hv⟩ | ⟨hnode, hv⟩
    · exact (execDecSym_storesRaw h he).2.raw hv
    · exact (execDecBlock_storesRaw h he).2.raw hv
    · exact (exec_node_emits hnode h he).raw hv

end Sys2Proof.Machine
end

section
/-! SUPPORT. Encodings (30_encoding R90 to R99, R110) and the values of the VLI forms (R91): an equation of `decode`
per form, what each layer's decoder answers, and the obligations about them. -/

namespace Sys2Proof.Machine

/-! ### Commands -/

theorem wellFormed_of_command {i : Instr} (h : i.layer = .command) : i.wellFormed = true := by
  cases i <;> cases h <;> rfl

/-- The opcode table of R110, read from the command to its opcode. -/
theorem decodeCommand_of_encode {i : Instr} (h : i.layer = .command) :
    ∃ c, encode i = [c] ∧ decodeCommand c = some i := by
  cases i <;> cases h <;> exact ⟨_, rfl, rfl⟩

/-- The opcode table of R110, read from the opcode to its command. -/
theorem encode_of_decodeCommand {c : Byte} {i : Instr} (h : decodeCommand c = some i) : encode i = [c] := by
  unfold decodeCommand at h
  split at h <;> cases h <;> exact congrArg ([·]) (BitVec.eq_of_toNat_eq (Eq.symm ‹_›))

theorem decode_command {c : Byte} {i : Instr} (h : decodeCommand c = some i) (rest : List Byte) :
    decode .command (c :: rest) = .ok (i, rest) := by
  simp only [decode, h]

/-! ### Nodes -/

/-- A header byte is a leaf tag, the escape of BRL or the skip of a BR (30_encoding R92). -/
theorem nodeHeader_cases (h : Byte) :
    h = 0x00 ∨ h = 0x01 ∨ h = 0x02 ∨ h = 0xFF ∨ (Instr.br h).wellFormed = true := by
  simp only [Instr.wellFormed, decide_eq_true_eq]
  bv_omega

theorem nodeFixedLen_br {h : Byte} (wf : (Instr.br h).wellFormed = true) : nodeFixedLen h = 1 := by
  obtain ⟨hlo, hhi⟩ : 3 ≤ h.toNat ∧ h.toNat ≤ 254 := of_decide_eq_true wf
  rw [nodeFixedLen, if_neg (by omega), if_neg (by bv_omega)]

theorem decodeNode_br {h : Byte} (wf : (Instr.br h).wellFormed = true) (b1 b2 : Byte) :
    decodeNode h b1 b2 = .br h := by
  obtain ⟨hlo, hhi⟩ : 3 ≤ h.toNat ∧ h.toNat ≤ 254 := of_decide_eq_true wf
  rw [decodeNode, caseNode, if_neg (by bv_omega), if_neg (by bv_omega), if_neg (by bv_omega), if_neg (by bv_omega)]

theorem decode_leafB (data : Byte) (rest : List Byte) :
    decode .node (0x00 :: data :: rest) = .ok (.leafB data, rest) := rfl

theorem decode_leafS (n : Byte) (rest : List Byte) :
    decode .node (0x01 :: n :: rest) = .ok (.leafS n, rest) := rfl

theorem decode_leafX (n : Byte) (rest : List Byte) :
    decode .node (0x02 :: n :: rest) = .ok (.leafX n, rest) := rfl

theorem decode_brl (lo hi : Byte) (rest : List Byte) :
    decode .node (0xFF :: lo :: hi :: rest) = .ok (.brl lo hi, rest) := rfl

theorem decode_br {h : Byte} (wf : (Instr.br h).wellFormed = true) (rest : List Byte) :
    decode .node (h :: rest) = .ok (.br h, rest) := by
  simp [decode, nodeFixedLen_br wf, decodeNode_br wf]

/-- The node read at a header byte is well-formed, and its encoding is the fixed part that the byte announces. -/
theorem decodeNode_spec (h b1 b2 : Byte) :
    (decodeNode h b1 b2).wellFormed = true ∧ (decodeNode h b1 b2).layer = .node ∧
      encode (decodeNode h b1 b2) = [h, b1, b2].take (nodeFixedLen h) := by
  obtain rfl | rfl | rfl | rfl | wf := nodeHeader_cases h
  case inr.inr.inr.inr =>
    rw [decodeNode_br wf, nodeFixedLen_br wf]
    exact ⟨wf, rfl, rfl⟩
  all_goals exact ⟨rfl, rfl, rfl⟩

/-! ### VLI forms -/

/-- A first byte is the escape of VLI.LONG or the value of a VLI.SHORT (30_encoding R91). -/
theorem vliFirst_cases (b0 : Byte) : b0 = 0xFF ∨ (Instr.vliShort b0).wellFormed = true := by
  simp only [Instr.wellFormed, decide_eq_true_eq]
  bv_omega

theorem vliShort_ne_escape {b0 : Byte} (wf : (Instr.vliShort b0).wellFormed = true) : b0 ≠ 0xFF := by
  rintro rfl
  cases wf

theorem decode_vliShort {b0 : Byte} (wf : (Instr.vliShort b0).wellFormed = true) (rest : List Byte) :
    decode .vli (b0 :: rest) = .ok (.vliShort b0, rest) := by
  simp only [decode, vliFixedLen, decodeVli, if_neg (vliShort_ne_escape wf)]
  simp

theorem decode_vliLong (lo hi : Byte) (rest : List Byte) :
    decode .vli (0xFF :: lo :: hi :: rest) = .ok (.vliLong lo hi, rest) := rfl

/-- The form read at a first byte is well-formed, and its encoding is the bytes that the byte announces. -/
theorem decodeVli_spec (b0 b1 b2 : Byte) :
    (decodeVli b0 b1 b2).wellFormed = true ∧ (decodeVli b0 b1 b2).layer = .vli ∧
      encode (decodeVli b0 b1 b2) = [b0, b1, b2].take (vliFixedLen b0) := by
  obtain rfl | wf := vliFirst_cases b0
  · exact ⟨rfl, rfl, rfl⟩
  · rw [decodeVli, vliFixedLen, if_neg (vliShort_ne_escape wf), if_neg (vliShort_ne_escape wf)]
    exact ⟨wf, rfl, rfl⟩

/-! ### The round trip -/

/-- Settles O1, form by form. -/
theorem decodeEncodeRoundTrip : Obligations.DecodeEncodeRoundTrip := by
  intro i rest wf
  by_cases hcmd : i.layer = .command
  · obtain ⟨c, henc, hdec⟩ := decodeCommand_of_encode hcmd
    rw [hcmd, henc]
    exact decode_command hdec rest
  cases i with
  | leafB data => exact decode_leafB data rest
  | leafS n => exact decode_leafS n rest
  | leafX n => exact decode_leafX n rest
  | br h => exact decode_br wf rest
  | brl lo hi => exact decode_brl lo hi rest
  | vliShort b0 => exact decode_vliShort wf rest
  | vliLong lo hi => exact decode_vliLong lo hi rest
  | _ => exact absurd rfl hcmd

theorem nodeFixedLen_le (h : Byte) : nodeFixedLen h ≤ 3 := by
  unfold nodeFixedLen
  split
  · decide
  · split <;> decide

theorem vliFixedLen_le (b0 : Byte) : vliFixedLen b0 ≤ 3 := by
  unfold vliFixedLen
  split <;> decide

/-- The bytes from which a form is decoded, up to its length `n`, are those that stand in front. -/
theorem fixedPart_append_rest {h : Byte} {tail : List Byte} {n : Nat} (hpos : 0 < n) (hmax : n ≤ 3)
    (hlen : n ≤ tail.length + 1) :
    [h, tail.getD 0 0, tail.getD 1 0].take n ++ tail.drop (n - 1) = h :: tail := by
  match n, tail with
  | 1, _ => rfl
  | 2, _ :: _ => rfl
  | 3, _ :: _ :: _ => rfl

theorem decode_command_cons {h : Byte} {tail rest : List Byte} {i : Instr}
    (hd : decode .command (h :: tail) = .ok (i, rest)) : decodeCommand h = some i ∧ tail = rest := by
  simp only [decode] at hd
  split at hd
  · next hi =>
    cases hd
    exact ⟨hi, rfl⟩
  · cases hd

theorem decode_node_cons {h : Byte} {tail rest : List Byte} {i : Instr}
    (hd : decode .node (h :: tail) = .ok (i, rest)) :
    nodeFixedLen h ≤ tail.length + 1 ∧ decodeNode h (tail.getD 0 0) (tail.getD 1 0) = i ∧
      tail.drop (nodeFixedLen h - 1) = rest := by
  simp only [decode] at hd
  split at hd
  · cases hd
  · next hlen =>
    cases hd
    exact ⟨Nat.le_of_not_lt hlen, rfl, rfl⟩

theorem decode_vli_cons {h : Byte} {tail rest : List Byte} {i : Instr}
    (hd : decode .vli (h :: tail) = .ok (i, rest)) :
    vliFixedLen h ≤ tail.length + 1 ∧ decodeVli h (tail.getD 0 0) (tail.getD 1 0) = i ∧
      tail.drop (vliFixedLen h - 1) = rest := by
  simp only [decode] at hd
  split at hd
  · cases hd
  · next hlen =>
    cases hd
    exact ⟨Nat.le_of_not_lt hlen, rfl, rfl⟩

/-- Settles O2: the decoded form's encoding is the front of the bytes, and the decoder leaves what comes after. -/
theorem decodedBytesAreItsEncoding : Obligations.DecodedBytesAreItsEncoding := by
  intro l bs rest i hd
  cases bs with
  | nil => cases hd
  | cons h tail =>
    cases l with
    | command =>
      obtain ⟨hi, rfl⟩ := decode_command_cons hd
      have hlayer := decodeCommand_layer hi
      exact ⟨wellFormed_of_command hlayer, hlayer, by rw [encode_of_decodeCommand hi]; rfl⟩
    | node =>
      obtain ⟨hlen, rfl, rfl⟩ := decode_node_cons hd
      obtain ⟨wf, hlayer, henc⟩ := decodeNode_spec h (tail.getD 0 0) (tail.getD 1 0)
      exact ⟨wf, hlayer, by rw [henc, fixedPart_append_rest (nodeFixedLen_pos h) (nodeFixedLen_le h) hlen]⟩
    | vli =>
      obtain ⟨hlen, rfl, rfl⟩ := decode_vli_cons hd
      obtain ⟨wf, hlayer, henc⟩ := decodeVli_spec h (tail.getD 0 0) (tail.getD 1 0)
      exact ⟨wf, hlayer, by rw [henc, fixedPart_append_rest (vliFixedLen_pos h) (vliFixedLen_le h) hlen]⟩

/-- Settles O3: the forms' equations at the bytes written out in the spec. -/
theorem specWordsDecode : Obligations.SpecWordsDecode :=
  ⟨decode_command rfl [], decode_command rfl [], rfl, decode_leafB 0x41 [], decode_leafS 0x02 [0x61, 0x62],
    decode_leafX 0x01 [0x78, 0x0E, 0x00], decode_br rfl [], decode_brl 0x02 0x01 [], decode_vliShort rfl [],
    decode_vliLong 0x34 0x12 []⟩

/-! ### The value of a VLI -/

theorem ofNat_leWord (lo hi : Byte) :
    BitVec.ofNat 32 (leWord lo hi) = lo.setWidth 32 + 256 * hi.setWidth 32 := by
  rw [leWord, BitVec.ofNat_add, BitVec.ofNat_mul, BitVec.ofNat_toNat, BitVec.ofNat_toNat]
  rfl

/-- Settles O36: RES0 is the form's value as a word, RES1 its length. -/
theorem vliFormsGiveValueAndLength : Obligations.VliFormsGiveValueAndLength := by
  intro b0 lo hi s
  refine ⟨?_, ?_⟩
  · rw [← BitVec.ofNat_toNat]
    rfl
  · rw [← ofNat_leWord]
    rfl

end Sys2Proof.Machine
end

section
/-! SUPPORT. Bit I/O (40_bitio R130 to R138): an equation per case of the writer and the reader, the stream of bits that
both see in PK (`State.pkBit`, `State.streamBit`), and the obligations about them. -/

namespace Sys2Proof.Machine

open Sys2Proof.Safety

variable {s t u : State}

/-- An accepted command whose body raises ends in that fault, taken (60_exceptions R271). -/
theorem command_faultsWith {always : Bool} {spoil : State → State → State} {body : State → Res Unit} {c : Cause}
    (h : s.accepts always = true) (hb : body s = .raise c t) : FaultsWith (command always spoil body s) c :=
  ⟨_, command_faults h hb, rfl, rfl, rfl⟩

/-! ### The bit reader -/

theorem bitRead_beyond (h : s.pkLen.toNat ≤ s.rpos.toNat) : bitRead s = (false, s) := by
  rw [bitRead, if_pos h]

theorem bitRead_below (h : s.rpos.toNat < s.pkLen.toNat) :
    bitRead s = ((s.pkByte s.rpos.toNat).getLsbD s.rbit.toNat,
      { s with rpos := if s.rbit = 7 then s.rpos + 1 else s.rpos, rbit := s.rbit + 1 }) := by
  rw [bitRead, if_neg (by omega)]
  split
  · next h7 => rw [h7]; rfl
  · rfl

theorem skipBits_beyond (h : s.pkLen.toNat ≤ s.rpos.toNat) (n : Nat) : skipBits n s = s := by
  induction n with
  | zero => rfl
  | succ n ih => rw [skipBits, bitRead_beyond h, ih]

/-- Skipping bits that lie in the byte at RPOS moves RBIT alone. -/
theorem skipBits_below {n : Nat} (h : s.rpos.toNat < s.pkLen.toNat) (hn : s.rbit.toNat + n < 8) :
    skipBits n s = { s with rbit := s.rbit + BitVec.ofNat 3 n } := by
  induction n generalizing s with
  | zero => rw [skipBits, BitVec.add_zero]
  | succ n ih =>
    have hne : s.rbit ≠ 7 := by bv_omega
    have hrest : s.rbit + 1 + BitVec.ofNat 3 n = s.rbit + BitVec.ofNat 3 (n + 1) := by
      rw [BitVec.add_assoc, Nat.add_comm n 1, BitVec.ofNat_add]
      rfl
    rw [skipBits, bitRead_below h, if_neg hne, ← hrest]
    exact ih h (by bv_omega)

/-- Settles O29: the bits skipped from bit 0 stay within the byte at ARG0, or none is there to skip. -/
theorem brSeekPlacesReader : Obligations.BrSeekPlacesReader := by
  refine ⟨rfl, fun s ha => ?_⟩
  unfold exec execBrSeek
  refine command_completes ha (congrArg (Res.ok ()) ?_)
  have hseek : s.seekBits < 8 := Nat.mod_lt _ (by decide)
  split
  · next h =>
    rw [skipBits_below h (by simpa using hseek)]
    have hbits : (0 : BitVec 3) + BitVec.ofNat 3 s.seekBits = s.arg1.setWidth 3 :=
      BitVec.eq_of_toNat_eq (by simp [State.seekBits])
    rw [hbits]
  · next h => rw [skipBits_beyond (Nat.le_of_not_lt h)]

/-- Settles O30, by the two cases of `BitRead`. -/
theorem brReadReturnsNextBit : Obligations.BrReadReturnsNextBit := by
  refine ⟨rfl, fun s ha => ?_⟩
  unfold exec execBrRead
  refine ⟨fun h => ?_, fun h => ?_⟩
  · refine command_completes ha ?_
    rw [bitRead_beyond h]
    rfl
  · refine command_completes ha ?_
    rw [bitRead_below h]
    cases (s.pkByte s.rpos.toNat).getLsbD s.rbit.toNat <;> rfl

/-! ### The bit writer -/

/-- The partial byte with bit `b` at WCNT (R131). -/
def State.accWith (s : State) (b : Bool) : Byte := s.wacc ||| ((BitVec.ofBool b).setWidth 8 <<< s.wcnt.toNat)

theorem accWith_eq (s : State) (b : Bool) :
    BitVec.ofNat 8 (s.wacc.toNat ||| (b.toNat <<< s.wcnt.toNat)) = s.accWith b :=
  BitVec.eq_of_toNat_eq (by cases b <;> simp [State.accWith])

/-- Sending a byte to PK leaves the writer aligned: the end of `BitPut`'s eighth bit and of a flush (R131, R134). -/
def sendByte (v : Byte) (s : State) : Res Unit :=
  (wAppend v s).bind fun _ t => .ok () { t with wacc := 0, wcnt := 0 }

theorem bitPut_below (b : Bool) (h : s.wcnt ≠ 7) :
    bitPut b s = .ok () { s with wacc := s.accWith b, wcnt := s.wcnt + 1 } := by
  simp only [bitPut, if_neg h, accWith_eq]

theorem bitPut_eighth (b : Bool) (h : s.wcnt = 7) : bitPut b s = sendByte (s.accWith b) s := by
  simp only [bitPut, if_pos h, accWith_eq, sendByte]

theorem flush_aligned (h : s.wcnt = 0) : flush s = .ok () s := by
  rw [flush, State.aligned, if_pos (decide_eq_true h)]

theorem flush_partial (h : s.wcnt ≠ 0) : flush s = sendByte s.wacc s := by
  rw [flush, State.aligned, if_neg (by simpa using h), sendByte]

/-- An append is `StoresBytes` of its one byte (20_memory R65). -/
theorem wAppend_storesBytes {v : Byte} {x : Unit} (h : wAppend v s = .ok x t) :
    StoresBytes s.wptr.toNat [v] s t := by
  obtain ⟨hw, rfl⟩ := wAppend_ok.mp h
  refine ⟨fun b => ?_, ?_, ?_⟩
  · by_cases hb : b = s.wptr.toNat
    · subst hb
      rw [State.pkByte, pkWrite_pk]
      split <;> simp [*, State.pkByte]
    · rw [List.length_singleton, if_neg (by omega)]
      exact pkWrite_pkByte_other v hb
  · dsimp only
    rw [pkWrite_ovf]
    split <;> simp <;> omega
  · have hlt := s.wlen.isLt
    have hroom : s.wptr.toNat + 1 < 2 ^ 32 := by bv_omega
    dsimp only
    rw [pkWrite_wlen, if_neg (by simp), BitVec.toNat_ofNat, Nat.mod_eq_of_lt (by omega), List.length_singleton]

theorem sendByte_stores (v : Byte) (h : s.wptr ≠ 0xFFFFFFFF) :
    ∃ t, sendByte v s = .ok () t ∧ StoresBytes s.wptr.toNat [v] s t ∧
      t = { s with wptr := s.wptr + 1, wacc := 0, wcnt := 0, pk := t.pk, wlen := t.wlen, ovf := t.ovf } := by
  obtain ⟨t, ht⟩ : ∃ t, wAppend v s = .ok () t := ⟨_, wAppend_ok.mpr ⟨h, rfl⟩⟩
  have hstores := wAppend_storesBytes ht
  refine ⟨{ t with wacc := 0, wcnt := 0 }, by rw [sendByte, ht, Res.bind_ok], hstores, ?_⟩
  rw [(wAppend_ok.mp ht).2, pkWrite_frame]

theorem sendByte_ceiling (v : Byte) (h : s.wptr = 0xFFFFFFFF) :
    sendByte v s = .raise (.formatLimit 0xFFFFFFFF) s := by
  rw [sendByte, wAppend_raise.mpr ⟨h, rfl, rfl⟩, Res.bind_raise, h]
  rfl

/-- Settles O26: the body is one update. -/
theorem bwInitPlacesWriter : Obligations.BwInitPlacesWriter := by
  refine ⟨rfl, fun s ha => ?_⟩
  unfold exec execBwInit
  exact command_completes ha rfl

theorem accWith_arg0Bit (s : State) :
    s.accWith s.arg0Bit = s.wacc ||| (((s.arg0.setWidth 1).setWidth 8) <<< s.wcnt.toNat) := by
  rw [State.accWith, State.arg0Bit, BitVec.setWidth_one]

/-- Settles O27: the eighth bit sends the byte. -/
theorem bwPutAppendsOneBit : Obligations.BwPutAppendsOneBit := by
  refine ⟨rfl, fun s ha => ?_⟩
  rw [← accWith_arg0Bit]
  refine ⟨fun h => command_completes ha (bitPut_below _ h), fun h hw => ?_, fun h hw => ?_⟩
  · obtain ⟨t, hsend, hstores, hframe⟩ := sendByte_stores (s.accWith s.arg0Bit) hw
    exact ⟨t, command_completes ha ((bitPut_eighth _ h).trans hsend), hstores, hframe⟩
  · exact command_faultsWith ha ((bitPut_eighth _ h).trans (sendByte_ceiling _ hw))

/-- Settles O28: a flush sends the partial byte if there is one. -/
theorem bwFlushWritesPartialByte : Obligations.BwFlushWritesPartialByte := by
  refine ⟨rfl, fun s ha => ⟨fun h => command_completes ha (flush_aligned h), fun h hw => ?_, fun h hw => ?_⟩⟩
  · obtain ⟨t, hsend, hstores, hframe⟩ := sendByte_stores s.wacc hw
    exact ⟨t, command_completes ha ((flush_partial h).trans hsend), hstores, hframe⟩
  · exact command_faultsWith ha ((flush_partial h).trans (sendByte_ceiling _ hw))

/-! ### The stream of bits in PK -/

/-- Bit `p` of PK: bit `p % 8` of byte `p / 8`, least significant first (20_memory R61). -/
def State.pkBit (s : State) (p : Nat) : Bool := (s.pkByte (p / 8)).getLsbD (p % 8)

/-- The number of the bit that the reader returns next (R33). -/
def State.readPos (s : State) : Nat := 8 * s.rpos.toNat + s.rbit.toNat

/-- The number of the bit that the writer puts next (R32). -/
def State.writePos (s : State) : Nat := 8 * s.wptr.toNat + s.wcnt.toNat

/-- Bit `p` of what the writer has written: the partial byte still stands in WACC (R32). -/
def State.streamBit (s : State) (p : Nat) : Bool :=
  if p / 8 = s.wptr.toNat then s.wacc.getLsbD (p % 8) else s.pkBit p

/-- Below PK_LEN a read answers the bit at the reader's place and moves it on by one. -/
theorem bitRead_pkBit (h : s.readPos < 8 * s.pkLen.toNat) :
    (bitRead s).1 = s.pkBit s.readPos ∧ (bitRead s).2.readPos = s.readPos + 1 := by
  have hbit := s.rbit.isLt
  have hlen := s.pkLen.isLt
  unfold State.readPos at h ⊢
  have hdiv : (8 * s.rpos.toNat + s.rbit.toNat) / 8 = s.rpos.toNat := by omega
  have hmod : (8 * s.rpos.toNat + s.rbit.toNat) % 8 = s.rbit.toNat := by omega
  rw [bitRead_below (by omega), State.pkBit, hdiv, hmod]
  refine ⟨rfl, ?_⟩
  dsimp only
  split <;> bv_omega

/-- Reads below PK_LEN answer the bits of PK in order. -/
theorem readBits_eq_pkBits {n : Nat} (h : s.readPos + n ≤ 8 * s.pkLen.toNat) :
    readBits n s = (List.range n).map fun i => s.pkBit (s.readPos + i) := by
  induction n generalizing s with
  | zero => rfl
  | succ n ih =>
    obtain ⟨hbit, hpos⟩ := bitRead_pkBit (s := s) (by omega)
    have hframe := bitRead_frame s
    have hlen : (bitRead s).2.pkLen = s.pkLen := (congrArg State.pkLen hframe :)
    have hpk : (bitRead s).2.pkBit = s.pkBit := (congrArg State.pkBit hframe :)
    rw [readBits, hbit, ih (by rw [hpos, hlen]; omega), hpos, hpk, List.range_succ_eq_map, List.map_cons,
      List.map_map]
    simp [Function.comp_def, Nat.add_assoc, Nat.add_comm 1]

/-! ### What putting bits does to the stream -/

/-- From `s` to `t` the writer put `bits` at its place, all of them within PK_CAP. -/
structure PutsBits (bits : List Bool) (s t : State) : Prop where
  pkCap : t.pkCap = s.pkCap
  ovf : t.ovf = s.ovf
  padded : partialPadded t = true
  writePos : t.writePos = s.writePos + bits.length
  before : ∀ p < s.writePos, t.streamBit p = s.streamBit p
  bit : ∀ i (h : i < bits.length), t.streamBit (s.writePos + i) = bits[i]

theorem PutsBits.nil (h : partialPadded s = true) : PutsBits [] s s :=
  ⟨rfl, rfl, h, rfl, fun _ _ => rfl, nofun⟩

theorem PutsBits.append {bs cs : List Bool} (h : PutsBits bs s t) (h' : PutsBits cs t u) :
    PutsBits (bs ++ cs) s u where
  pkCap := h'.pkCap.trans h.pkCap
  ovf := h'.ovf.trans h.ovf
  padded := h'.padded
  writePos := by rw [h'.writePos, h.writePos, List.length_append, Nat.add_assoc]
  before p hp := by
    have hst := h.writePos
    exact (h'.before p (by omega)).trans (h.before p hp)
  bit i hi := by
    have hst := h.writePos
    rw [List.length_append] at hi
    by_cases hlt : i < bs.length
    · rw [List.getElem_append_left hlt, h'.before _ (by omega), h.bit i hlt]
    · rw [List.getElem_append_right (by omega), ← h'.bit (i - bs.length) (by omega), hst]
      congr 1
      omega

/-- Bits WCNT to 7 of a padded partial byte are 0 (10_state R32). -/
theorem wacc_getLsbD_of_padded (h : partialPadded s = true) {j : Nat} (hj : s.wcnt.toNat ≤ j) :
    s.wacc.getLsbD j = false :=
  Nat.testBit_lt_two_pow ((of_decide_eq_true h).trans_le (Nat.pow_le_pow_right (by decide) hj))

/-- The new bit stands at WCNT (R131). -/
theorem accWith_getLsbD_wcnt (h : partialPadded s = true) (b : Bool) :
    (s.accWith b).getLsbD s.wcnt.toNat = b := by
  have hcnt : s.wcnt.toNat < 8 := s.wcnt.isLt
  rw [State.accWith, BitVec.getLsbD_or, wacc_getLsbD_of_padded h le_rfl]
  simp [hcnt]

/-- The bits below WCNT stay (R131). -/
theorem accWith_getLsbD_below (b : Bool) {j : Nat} (hj : j < s.wcnt.toNat) :
    (s.accWith b).getLsbD j = s.wacc.getLsbD j := by
  simp [State.accWith, hj]

/-- The stream up to the writer's place once a bit is put there. -/
theorem accWith_streamBit (h : partialPadded s = true) (b : Bool) {p : Nat} (hp : p ≤ s.writePos) :
    (if p / 8 = s.wptr.toNat then (s.accWith b).getLsbD (p % 8) else s.pkBit p) =
      if p = s.writePos then b else s.streamBit p := by
  have hcnt := s.wcnt.isLt
  unfold State.streamBit
  unfold State.writePos at hp ⊢
  by_cases hbyte : p / 8 = s.wptr.toNat
  · rw [if_pos hbyte, if_pos hbyte]
    split
    · next he =>
      have hmod : p % 8 = s.wcnt.toNat := by omega
      rw [hmod, accWith_getLsbD_wcnt h]
    · next hne => exact accWith_getLsbD_below b (by omega)
  · rw [if_neg hbyte, if_neg hbyte, if_neg (by omega)]

/-- A byte sent below PK_CAP is then in PK with the bytes before it, and OVF stays. -/
theorem sendByte_pkBit (v : Byte) (hcap : s.wptr.toNat < s.pkCap.toNat) :
    ∃ t, sendByte v s = .ok () t ∧ t.ovf = s.ovf ∧ t.wcnt = 0 ∧ t.wptr.toNat = s.wptr.toNat + 1 ∧
      ∀ p, t.pkBit p = if p / 8 = s.wptr.toNat then v.getLsbD (p % 8) else s.pkBit p := by
  have hlt := s.pkCap.isLt
  obtain ⟨t, hok, ⟨hpk, hovf, _⟩, hframe⟩ := sendByte_stores v (s := s) (by bv_omega)
  refine ⟨t, hok, ?_, (congrArg State.wcnt hframe :), ?_, fun p => ?_⟩
  · have hfits : ¬ s.pkCap.toNat < s.wptr.toNat + 1 := by omega
    simp [hovf, hfits]
  · have hw : t.wptr = s.wptr + 1 := (congrArg State.wptr hframe :)
    rw [hw]
    bv_omega
  · rw [State.pkBit, hpk, List.length_singleton]
    by_cases hp : p / 8 = s.wptr.toNat
    · rw [if_pos (by omega), if_pos hp, hp, Nat.sub_self]
      rfl
    · rw [if_neg (by omega), if_neg hp]
      rfl

/-- A bit put goes to the writer's place in the stream, and the writer moves on by one. -/
theorem bitPut_streamBit (b : Bool) (h : partialPadded s = true) (hroom : s.writePos < 8 * s.pkCap.toNat) :
    ∃ t, bitPut b s = .ok () t ∧ t.ovf = s.ovf ∧ t.writePos = s.writePos + 1 ∧
      ∀ p ≤ s.writePos, t.streamBit p = if p = s.writePos then b else s.streamBit p := by
  by_cases h7 : s.wcnt = 7
  · have hpos : s.writePos = 8 * s.wptr.toNat + 7 := by rw [State.writePos, h7]; rfl
    obtain ⟨t, hok, hovf, hcnt, hptr, hbit⟩ := sendByte_pkBit (s := s) (s.accWith b) (by omega)
    refine ⟨t, (bitPut_eighth b h7).trans hok, hovf, ?_, fun p hp => ?_⟩
    · rw [State.writePos, hcnt, hptr, hpos]
      rfl
    · rw [State.streamBit, if_neg (by omega), hbit, accWith_streamBit h b hp]
  · refine ⟨_, bitPut_below b h7, rfl, ?_, fun p hp => accWith_streamBit h b hp⟩
    unfold State.writePos
    dsimp only
    bv_omega

theorem bitPut_putsBits (b : Bool) (h : partialPadded s = true) (hroom : s.writePos < 8 * s.pkCap.toNat) :
    ∃ t, bitPut b s = .ok () t ∧ PutsBits [b] s t := by
  obtain ⟨t, hok, hovf, hpos, hbit⟩ := bitPut_streamBit b h hroom
  have hworks : Works false s t := (bitPut_works b).ok hok
  refine ⟨t, hok, (congrArg State.pkCap (bitPut_frame hok) :), hovf, hworks.padded h, hpos, fun p hp => ?_,
    fun i hi => ?_⟩
  · rw [hbit p hp.le, if_neg hp.ne]
  · obtain rfl : i = 0 := Nat.lt_one_iff.mp hi
    exact (hbit _ le_rfl).trans (if_pos rfl)

theorem putAll_putsBits (bits : List Bool) (hp : partialPadded s = true)
    (hroom : s.writePos + bits.length ≤ 8 * s.pkCap.toNat) :
    ∃ t, putAll bits s = .ok () t ∧ PutsBits bits s t := by
  induction bits generalizing s with
  | nil => exact ⟨s, rfl, .nil hp⟩
  | cons b rest ih =>
    rw [List.length_cons] at hroom
    obtain ⟨t, ht, hput⟩ := bitPut_putsBits b hp (by omega)
    have hpos := hput.writePos
    rw [List.length_singleton] at hpos
    obtain ⟨u, hu, hrest⟩ := ih hput.padded (by rw [hput.pkCap]; omega)
    exact ⟨u, by rw [putAll, ht, Res.bind_ok, hu], hput.append hrest⟩

/-- Past the bits put, the partial byte reads as zeros (10_state R32). -/
theorem streamBit_of_padded (h : partialPadded s = true) {p : Nat} (hp : s.writePos ≤ p)
    (hbyte : p / 8 = s.wptr.toNat) : s.streamBit p = false := by
  unfold State.writePos at hp
  rw [State.streamBit, if_pos hbyte]
  exact wacc_getLsbD_of_padded h (by omega)

/-- A flush leaves in PK the bits put so far and zeros up to the byte boundary (R134). -/
theorem flush_pkBit (h : partialPadded s = true) (hroom : s.writePos ≤ 8 * s.pkCap.toNat) :
    ∃ t, flush s = .ok () t ∧ t.wcnt = 0 ∧ t.ovf = s.ovf ∧ t.wptr.toNat = (s.writePos + 7) / 8 ∧
      ∀ p < 8 * t.wptr.toNat, t.pkBit p = if p < s.writePos then s.streamBit p else false := by
  have hcnt := s.wcnt.isLt
  have hpos : s.writePos = 8 * s.wptr.toNat + s.wcnt.toNat := rfl
  by_cases h0 : s.wcnt = 0
  · have hz : s.wcnt.toNat = 0 := by rw [h0]; rfl
    refine ⟨s, flush_aligned h0, h0, rfl, by omega, fun p hp => ?_⟩
    rw [if_pos (by omega), State.streamBit, if_neg (by omega)]
  · have hz : s.wcnt.toNat ≠ 0 := by bv_omega
    obtain ⟨t, hok, hovf, hcnt', hptr, hbit⟩ := sendByte_pkBit (s := s) s.wacc (by omega)
    refine ⟨t, (flush_partial h0).trans hok, hcnt', hovf, by omega, fun p hp => (hbit p).trans ?_⟩
    change s.streamBit p = _
    split
    · rfl
    · exact streamBit_of_padded h (by omega) (by omega)

/-- A reader placed at a byte of PK reads the bits from there on. -/
theorem readBits_placed {a len : Word} {n : Nat} (h : 8 * a.toNat + n ≤ 8 * len.toNat) :
    readBits n { s with rpos := a, rbit := 0, pkLen := len } =
      (List.range n).map fun i => s.pkBit (8 * a.toNat + i) :=
  readBits_eq_pkBits h

/-- Settles O31: the bits put stand in the stream, the flush brings them to PK with zeros after them, and the reader
takes PK's bits in order. -/
theorem putBitsReadBack : Obligations.PutBitsReadBack := by
  intro bits s hcnt hacc hroom
  have hpadded : partialPadded s = true := by rw [partialPadded, hcnt, hacc]; rfl
  have hstart : s.writePos = 8 * s.wptr.toNat := by rw [State.writePos, hcnt]; rfl
  obtain ⟨t, hput, hbits⟩ := putAll_putsBits bits hpadded (by omega)
  have hend := hbits.writePos
  obtain ⟨u, hflush, hcnt', hovf, hptr, hpk⟩ := flush_pkBit hbits.padded (by rw [hbits.pkCap]; omega)
  refine ⟨u, by rw [hput, Res.bind_ok, hflush], by omega, hcnt', hovf.trans hbits.ovf, fun len hlen => ?_⟩
  rw [ReadsBack, readBits_placed (by omega)]
  refine List.ext_getElem (by simp; omega) fun i hi _ => ?_
  rw [List.length_map, List.length_range] at hi
  rw [List.getElem_map, List.getElem_range, ← hstart, hpk _ (by omega)]
  by_cases hlt : i < bits.length
  · rw [if_pos (by omega), hbits.bit i hlt, List.getElem_append_left hlt]
  · rw [if_neg (by omega), List.getElem_append_right (by omega), List.getElem_replicate]

end Sys2Proof.Machine
end

section
/-! SUPPORT. Bytes appended in order (40_bitio R130, 20_memory R65): when the writer has room for them, and what they
leave in PK. -/

namespace Sys2Proof.Machine

open Sys2Proof.Safety

variable {s t u : State}

theorem storesBytes_nil (a : Nat) (s : State) : StoresBytes a [] s s := by
  refine ⟨fun b => ?_, by simp, rfl⟩
  rw [List.length_nil, if_neg (by omega)]

theorem storesBytes_append {a : Nat} {bs cs : List Byte} (h : StoresBytes a bs s t)
    (h' : StoresBytes (a + bs.length) cs t u) (hcap : t.pkCap = s.pkCap) : StoresBytes a (bs ++ cs) s u := by
  obtain ⟨hpk, hovf, hwlen⟩ := h
  obtain ⟨hpk', hovf', hwlen'⟩ := h'
  have hbs : bs = [] ↔ bs.length = 0 := List.length_eq_zero_iff.symm
  have hcs : cs = [] ↔ cs.length = 0 := List.length_eq_zero_iff.symm
  refine ⟨fun b => ?_, ?_, ?_⟩
  · rw [hpk', hpk, hcap, List.length_append]
    by_cases hlt : b < a + bs.length
    · rw [if_neg fun h => absurd h.1 (by omega)]
      refine if_ctx_congr (by omega) (fun h => ?_) fun _ => rfl
      exact (List.getD_append _ _ _ _ (by omega)).symm
    · rw [if_neg (c := a ≤ b ∧ b < a + bs.length ∧ _) fun h => hlt h.2.1]
      refine if_ctx_congr (by omega) (fun h => ?_) fun _ => rfl
      rw [List.getD_append_right _ _ _ _ (by omega), Nat.sub_add_eq]
  · rw [hovf', hovf, hcap, Bool.or_assoc, ← Bool.decide_or, List.length_append]
    congr 2
    simp only [ne_eq, List.append_eq_nil_iff, hbs, hcs, eq_iff_iff]
    omega
  · rw [hwlen', hwlen, List.length_append]
    simp only [List.append_eq_nil_iff, hbs, hcs]
    split_ifs <;> omega

/-- An append moves WPTR on by one and keeps PK_CAP. -/
theorem wAppend_moves {v : Byte} {x : Unit} (h : wAppend v s = .ok x t) :
    t.wptr.toNat = s.wptr.toNat + 1 ∧ t.pkCap = s.pkCap := by
  obtain ⟨hne, rfl⟩ := wAppend_ok.mp h
  refine ⟨?_, (congrArg State.pkCap (pkWrite_frame _ _ _) :)⟩
  dsimp only
  bv_omega

theorem appendAll_storesBytes (bs : List Byte) {x : Unit} (h : appendAll bs s = .ok x t) :
    StoresBytes s.wptr.toNat bs s t := by
  induction bs generalizing s with
  | nil => cases h; exact storesBytes_nil _ _
  | cons v rest ih =>
    obtain ⟨_, w, hw, hrest⟩ := Res.bind_eq_ok.mp h
    obtain ⟨hptr, hcap⟩ := wAppend_moves hw
    exact storesBytes_append (wAppend_storesBytes hw) (hptr ▸ ih hrest) hcap

/-- Bytes that keep WPTR at or below its ceiling are all appended (R130). -/
theorem appendAll_fits (bs : List Byte) (h : s.wptr.toNat + bs.length ≤ 2 ^ 32 - 1) :
    ∃ t, appendAll bs s = .ok () t := by
  induction bs generalizing s with
  | nil => exact ⟨s, rfl⟩
  | cons v rest ih =>
    rw [List.length_cons] at h
    obtain ⟨w, hw⟩ : ∃ w, wAppend v s = .ok () w := ⟨_, wAppend_ok.mpr ⟨by bv_omega, rfl⟩⟩
    have hptr := (wAppend_moves hw).1
    rw [appendAll, hw, Res.bind_ok]
    exact ih (by omega)

/-- Bytes that would take WPTR past its ceiling raise there (R130). -/
theorem appendAll_ceiling (bs : List Byte) (h : 2 ^ 32 - 1 < s.wptr.toNat + bs.length) :
    ∃ t, appendAll bs s = .raise (.formatLimit 0xFFFFFFFF) t := by
  induction bs generalizing s with
  | nil => exact absurd s.wptr.isLt (by rw [List.length_nil] at h; omega)
  | cons v rest ih =>
    rw [List.length_cons] at h
    by_cases hfull : s.wptr = 0xFFFFFFFF
    · refine ⟨s, ?_⟩
      rw [appendAll, wAppend_raise.mpr ⟨hfull, rfl, rfl⟩, Res.bind_raise, hfull]
      rfl
    · obtain ⟨w, hw⟩ : ∃ w, wAppend v s = .ok () w := ⟨_, wAppend_ok.mpr ⟨hfull, rfl⟩⟩
      have hptr := (wAppend_moves hw).1
      rw [appendAll, hw, Res.bind_ok]
      exact ih (by omega)

end Sys2Proof.Machine
end

section
/-! SUPPORT. The variable-length integer (41_varint R150 to R154): the two forms that `vli_bytes` writes, the cases of
`vli_read`, and the obligations about them. -/

namespace Sys2Proof.Machine

open Sys2Proof.Safety

variable {s t : State} {a v : Nat} {bs : List Byte}

/-! ### The bytes of a value -/

theorem vliBytes_short (h : v ≤ 254) : vliBytes v = .ok [BitVec.ofNat 8 v] := by
  rw [vliBytes, if_neg (by omega), if_pos h]

theorem vliBytes_long (hlo : 254 < v) (hhi : v ≤ 65535) :
    vliBytes v = .ok [0xFF, BitVec.ofNat 8 v, BitVec.ofNat 8 (v / 256)] := by
  rw [vliBytes, if_neg (by omega), if_neg (by omega)]

theorem vliBytes_over (h : 65535 < v) : vliBytes v = .error (.formatLimit (v % 2 ^ 32)) := by
  rw [vliBytes, if_pos h]

theorem vliSize_of_vliBytes (h : vliBytes v = .ok bs) : vliSize v = .ok bs.length := by
  unfold vliBytes at h
  unfold vliSize
  split at h
  · cases h
  · next hv =>
    cases h
    rw [if_neg hv]
    split <;> rfl

/-! ### The value of two bytes -/

theorem leWord_le (lo hi : Byte) : leWord lo hi ≤ 65535 := by
  unfold leWord
  omega

theorem ofNat_leWord_lo (lo hi : Byte) : BitVec.ofNat 8 (leWord lo hi) = lo := by
  unfold leWord
  bv_omega

theorem ofNat_leWord_hi (lo hi : Byte) : BitVec.ofNat 8 (leWord lo hi / 256) = hi := by
  unfold leWord
  bv_omega

theorem leWord_ofNat (h : v ≤ 65535) : leWord (BitVec.ofNat 8 v) (BitVec.ofNat 8 (v / 256)) = v := by
  simp only [leWord, BitVec.toNat_ofNat]
  omega

/-- The values below 255, which `vli_bytes` never writes in three bytes (R150). -/
theorem leWord_le_254 {lo hi : Byte} : leWord lo hi ≤ 254 ↔ hi = 0 ∧ lo.toNat < 255 := by
  unfold leWord
  bv_omega

/-! ### Reading a VLI -/

theorem vliRead_beyond (h : s.pkLen.toNat ≤ a) : vliRead a s = .raise (.rangeFault (a % 2 ^ 32)) s := by
  rw [vliRead, pkRead_beyond h, Res.bind_raise]

theorem vliRead_short (h : a < s.pkLen.toNat) (h0 : s.pkByte a ≠ 0xFF) :
    vliRead a s = .ok ((s.pkByte a).toNat, 1) s := by
  rw [vliRead, pkRead_below h, Res.bind_ok, if_neg h0]

theorem vliRead_long (h : a + 2 < s.pkLen.toNat) (h0 : s.pkByte a = 0xFF) :
    vliRead a s = .ok (leWord (s.pkByte (a + 1)) (s.pkByte (a + 2)), 3) s := by
  rw [vliRead, pkRead_below (by omega), Res.bind_ok, if_pos h0, pkRead_below (by omega), Res.bind_ok,
    pkRead_below h, Res.bind_ok]

/-- A three-byte form that PK_LEN cuts raises at PK_LEN. -/
theorem vliRead_cut (hlo : a < s.pkLen.toNat) (hhi : s.pkLen.toNat ≤ a + 2) (h0 : s.pkByte a = 0xFF) :
    vliRead a s = .raise (.rangeFault s.pkLen.toNat) s := by
  have hmod : s.pkLen.toNat % 2 ^ 32 = s.pkLen.toNat := Nat.mod_eq_of_lt s.pkLen.isLt
  rw [vliRead, pkRead_below hlo, Res.bind_ok, if_pos h0]
  by_cases h1 : s.pkLen.toNat = a + 1
  · rw [pkRead_beyond h1.le, Res.bind_raise, ← h1, hmod]
  · have h2 : s.pkLen.toNat = a + 2 := by omega
    rw [pkRead_below (by omega), Res.bind_ok, pkRead_beyond hhi, Res.bind_raise, ← h2, hmod]

/-- Reading the bytes of a value answers the value and their number (R154). -/
theorem vliRead_vliBytes (hv : v ≤ 65535) (h : vliBytes v = .ok bs)
    (hroom : a + bs.length ≤ s.pkLen.toNat) (hpk : pkBytes a bs.length s = bs) :
    vliRead a s = .ok (v, bs.length) s := by
  by_cases hs : v ≤ 254
  · cases (vliBytes_short hs).symm.trans h
    have h0 : s.pkByte a = BitVec.ofNat 8 v := by simpa [pkBytes, List.range_succ] using hpk
    have hne : s.pkByte a ≠ 0xFF := by rw [h0]; bv_omega
    rw [vliRead_short (by simpa using hroom) hne, h0, BitVec.toNat_ofNat, Nat.mod_eq_of_lt (by omega)]
    rfl
  · cases (vliBytes_long (by omega) hv).symm.trans h
    have hbytes : s.pkByte a = 0xFF ∧ s.pkByte (a + 1) = BitVec.ofNat 8 v ∧
        s.pkByte (a + 2) = BitVec.ofNat 8 (v / 256) := by
      simpa [pkBytes, List.range_succ] using hpk
    obtain ⟨h0, h1, h2⟩ := hbytes
    rw [vliRead_long hroom h0, h1, h2, leWord_ofNat hv]
    rfl

/-- Settles O33: the value tells the form; read back, the form gives the value, and of the three-byte forms only those
of a value below 255 are not written. -/
theorem vliRoundTrip : Obligations.VliRoundTrip := by
  refine ⟨fun v hv => ?_, fun b0 h0 => ?_, fun lo hi => ?_⟩
  · obtain ⟨bs, hbs⟩ : ∃ bs, vliBytes v = .ok bs := ⟨_, by rw [vliBytes, if_neg (by omega)]⟩
    exact ⟨bs, hbs, vliSize_of_vliBytes hbs, fun s a => vliRead_vliBytes hv hbs⟩
  · rw [vliBytes_short (by bv_omega), BitVec.ofNat_toNat, BitVec.setWidth_eq]
  · rw [← leWord_le_254]
    by_cases hs : leWord lo hi ≤ 254
    · simp [vliBytes_short hs, hs]
    · simp [vliBytes_long (Nat.lt_of_not_le hs) (leWord_le lo hi), hs, ofNat_leWord_lo, ofNat_leWord_hi]

/-! ### The two commands -/

theorem execVliEnc_unaligned (ha : s.accepts false = true) (h : s.wcnt ≠ 0) :
    FaultsWith (execVliEnc s) (.operand s.wcnt.toNat) := by
  refine command_faultsWith (t := s) ha ?_
  rw [State.aligned, if_neg (by simpa using h)]

theorem execVliEnc_over (ha : s.accepts false = true) (h : s.wcnt = 0) (hv : 65535 < s.arg0.toNat) :
    FaultsWith (execVliEnc s) (.formatLimit s.arg0.toNat) := by
  refine command_faultsWith (t := s) ha ?_
  rw [State.aligned, if_pos (decide_eq_true h), vliBytes_over hv, Nat.mod_eq_of_lt s.arg0.isLt]
  rfl

theorem execVliEnc_appended (ha : s.accepts false = true) (h : s.wcnt = 0) (hbs : vliBytes s.arg0.toNat = .ok bs)
    (ht : appendAll bs s = .ok () t) : execVliEnc s = .next { t with res0 := BitVec.ofNat 32 bs.length } := by
  refine command_completes ha ?_
  rw [State.aligned, if_pos (decide_eq_true h), hbs, Res.ofExcept, Res.bind_ok, ht, Res.bind_ok]

theorem execVliEnc_ceiling {c : Cause} (ha : s.accepts false = true) (h : s.wcnt = 0)
    (hbs : vliBytes s.arg0.toNat = .ok bs) (ht : appendAll bs s = .raise c t) : FaultsWith (execVliEnc s) c := by
  refine command_faultsWith (t := t) ha ?_
  rw [State.aligned, if_pos (decide_eq_true h), hbs, Res.ofExcept, Res.bind_ok, ht, Res.bind_raise]

/-- Settles O34: the three checks in the order in which VLI_ENC meets them; past them the bytes are appended. -/
theorem vliEncAppendsBytes : Obligations.VliEncAppendsBytes := by
  refine ⟨rfl, fun s ha => ⟨execVliEnc_unaligned ha, execVliEnc_over ha, fun bs h hbs hroom => ?_,
    fun bs h hbs hfull => ?_⟩⟩
  · obtain ⟨t, ht⟩ := appendAll_fits bs hroom
    have hptr : t.wptr = s.wptr + BitVec.ofNat 32 bs.length :=
      BitVec.eq_of_toNat_eq (by rw [appendAll_wptr bs ht]; bv_omega)
    have hstores := appendAll_storesBytes bs ht
    refine ⟨_, execVliEnc_appended ha h hbs ht, hstores, ?_⟩
    rw [← hptr, appendAll_frame bs ht]
  · obtain ⟨t, ht⟩ := appendAll_ceiling bs hfull
    exact execVliEnc_ceiling ha h hbs ht

theorem execVliDec_reads {v n : Nat} (ha : s.accepts false = true) (h : vliRead s.arg0.toNat s = .ok (v, n) s) :
    execVliDec s = .next (vliResult v n s) :=
  command_completes ha (by rw [h, Res.bind_ok])

theorem execVliDec_faults {c : Cause} (ha : s.accepts false = true) (h : vliRead s.arg0.toNat s = .raise c s) :
    FaultsWith (execVliDec s) c :=
  command_faultsWith ha (by rw [h, Res.bind_raise])

/-- Settles O35, by the cases of `vli_read`. -/
theorem vliDecReadsValue : Obligations.VliDecReadsValue := by
  refine ⟨rfl, fun s ha => ?_⟩
  refine ⟨fun h => ?_, fun h h0 => ?_, fun h h0 => ?_, fun h h0 => ?_, fun h h0 => ?_⟩
  · exact faultsWith_rangeFault_mod (execVliDec_faults ha (vliRead_beyond h))
  · rw [← BitVec.ofNat_toNat]
    exact execVliDec_reads ha (vliRead_short h h0)
  · exact h ▸ execVliDec_faults ha (vliRead_cut (by omega) (by omega) h0)
  · exact h ▸ execVliDec_faults ha (vliRead_cut (by omega) (by omega) h0)
  · rw [← ofNat_leWord]
    exact execVliDec_reads ha (vliRead_long h h0)

end Sys2Proof.Machine
end

section
/-! SUPPORT. The Huffman tree (42_huffman R161 to R165): what HUF_BUILD counts, the invariant of its arena over every
merge, the state it completes to, and the obligations about HUF_BUILD, HUF_BITS and the tree part of EST_SIZE. -/

namespace Sys2Proof.Machine

open Sys2Proof.Safety

variable {s t : State} {toks : List Token} {n k id : Nat}

/-! ### HUF_BITS -/

theorem lowWord_add_highWord (n : Nat) : (lowWord n).toNat + 2 ^ 32 * (highWord n).toNat = n % 2 ^ 64 := by
  simp only [lowWord, highWord, BitVec.toNat_ofNat]
  omega

theorem execHufBits_completes {tr : Option HTree} (ha : s.accepts false = true) (hv : s.vHuf = true)
    (ht : s.tree = some tr) :
    execHufBits s = .next { s with res0 := lowWord (treeBits tr), res1 := highWord (treeBits tr) } :=
  command_completes ha (by simp only [hv, if_true, withTree, ht])

theorem execHufBits_invalid (ha : s.accepts false = true) (hv : s.vHuf = false) :
    FaultsWith (execHufBits s) (.stateFault 0x31) :=
  command_faultsWith (t := s) ha (by simp only [hv, Bool.false_eq_true, if_false])

/-- Settles O41: the two words of `tree_bits` make up its value modulo 2^64. -/
theorem hufBitsReturnsTreeBits : Obligations.HufBitsReturnsTreeBits :=
  ⟨rfl, fun _ => execHufBits_invalid, fun _ _ _ _ _ => ⟨rfl, rfl, rfl, rfl⟩, fun _ tr ha hv ht =>
    ⟨_, execHufBits_completes ha hv ht, rfl, lowWord_add_highWord (treeBits tr)⟩⟩

/-! ### Counting -/

theorem countSym_eq_count (id : Nat) (toks : List Token) : countSym id toks = toks.count (.sym id) := by
  induction toks with
  | nil => rfl
  | cons tok rest ih =>
    cases tok with
    | split => simp [countSym, ih]
    | sym j => by_cases hj : j = id <;> simp [countSym, ih, hj]

theorem tokens_length (s : State) : s.tokens.length = s.ssLen.toNat := by simp [State.tokens]

/-- A count never passes 32 bits, since SS_LEN does not. -/
theorem countOf_toNat (s : State) (id : Nat) : (s.countOf id).toNat = s.tokens.count (.sym id) := by
  have hle := List.count_le_length (a := Token.sym id) (l := s.tokens)
  have hlt := s.ssLen.isLt
  rw [tokens_length] at hle
  rw [State.countOf, BitVec.toNat_ofNat, countSym_eq_count, Nat.mod_eq_of_lt (by omega)]

theorem countOf_ne_zero : s.countOf id ≠ 0 ↔ Token.sym id ∈ s.tokens := by
  rw [← List.count_pos_iff, ← countOf_toNat]
  bv_omega

theorem tokensInAlphabet_iff : tokensInAlphabet s = true ↔ ∀ id, Token.sym id ∈ s.tokens → id < s.nSym.toNat := by
  unfold tokensInAlphabet
  rw [List.all_eq_true]
  refine ⟨fun h id hid => of_decide_eq_true (h _ hid), fun h tok htok => ?_⟩
  cases tok with
  | split => rfl
  | sym id => exact decide_eq_true (h id htok)

theorem firstForeign_eq_none (h : ∀ id, Token.sym id ∈ toks → id < n) : firstForeign n toks = none := by
  induction toks with
  | nil => rfl
  | cons tok rest ih =>
    have hrest := ih fun id hid => h id (List.mem_cons_of_mem _ hid)
    cases tok with
    | split => exact hrest
    | sym id => rw [firstForeign, if_neg (by have := h id (List.mem_cons_self ..); omega), hrest]

theorem mem_of_firstForeign_eq_none (h : firstForeign n toks = none) (hid : Token.sym id ∈ toks) : id < n := by
  induction toks with
  | nil => cases hid
  | cons tok rest ih =>
    cases tok with
    | split => exact ih h (by simpa using hid)
    | sym j =>
      rw [firstForeign] at h
      split at h
      · cases h
      · next hj =>
        rcases List.mem_cons.mp hid with hid | hid
        · cases hid; omega
        · exact ih h hid

/-- The token that is reported is the first one outside the alphabet, in index order (20_memory R70). -/
theorem firstForeign_eq_some (hk : toks[k]? = some (.sym id)) (hid : n ≤ id)
    (hbefore : ∀ j < k, ∀ m, toks[j]? = some (.sym m) → m < n) : firstForeign n toks = some id := by
  induction toks generalizing k with
  | nil => cases hk
  | cons tok rest ih =>
    cases k with
    | zero => cases hk; rw [firstForeign, if_pos hid]
    | succ k =>
      have hrest := ih hk fun j hj => hbefore (j + 1) (by omega)
      cases tok with
      | split => exact hrest
      | sym m => rw [firstForeign, if_neg (by have := hbefore 0 (by omega) m rfl; omega), hrest]

theorem tokens_getElem? (h : k < s.ssLen.toNat) : s.tokens[k]? = some (s.token k) := by simp [State.tokens, h]

/-! ### The arena's invariant -/

theorem countAt_of_getElem? {nodes : List Node} {e : Node} (h : nodes[n]? = some e) :
    countAt nodes n = e.count.toNat := by simp only [countAt, h]

theorem countAt_append {nodes : List Node} (more : List Node) (h : n < nodes.length) :
    countAt (nodes ++ more) n = countAt nodes n := by simp only [countAt, List.getElem?_append_left h]

/-- What every merge of `combine` keeps holds of its result (R161 step 3). -/
theorem combine_induction {P : List Node → List Nat → Prop} (tie : TieRule)
    (merge : ∀ nodes q a b, P nodes q → a ∈ leastNodes nodes q → b ∈ leastNodes nodes (q.erase a) →
      P (nodes ++ [mergedNode nodes a b]) ((q.erase a).erase b ++ [nodes.length]))
    {nodes : List Node} {q : List Nat} (hk : k ≤ q.length - 1) (h : P nodes q) :
    P (combine tie k nodes q).1 (combine tie k nodes q).2 := by
  induction k generalizing nodes q with
  | zero => exact h
  | succ k ih =>
    obtain ⟨a, ha, b, hb, hc⟩ := combine_succ tie k nodes (by omega : 2 ≤ q.length)
    have hlen : ((q.erase a).erase b ++ [nodes.length]).length = q.length - 1 := by
      rw [List.length_append, List.length_erase_of_mem (leastNodes_subset _ _ hb),
        List.length_erase_of_mem (leastNodes_subset _ _ ha), List.length_singleton]
      omega
    rw [hc]
    exact ih (by omega) (merge nodes q a b h ha hb)

/-- An arena under construction and its queue: every internal entry has two earlier children, whose counts its own
adds up; the queue holds entries of the arena, the newest among them, and `total` counts (R161, R164). -/
structure CountedArena (total : Nat) (nodes : List Node) (q : List Nat) : Prop where
  children : ∀ {n a b c}, nodes[n]? = some (.internal a b c) →
    a < n ∧ b < n ∧ a ≠ b ∧ c.toNat = countAt nodes a + countAt nodes b
  queued : ∀ n ∈ q, n < nodes.length
  nodup : q.Nodup
  newest : nodes ≠ [] → nodes.length - 1 ∈ q
  sum_counts : (q.map (countAt nodes)).sum = total

variable {total : Nat} {nodes : List Node} {q : List Nat}

/-- The counts of two queued nodes and of the rest of the queue. -/
theorem CountedArena.sum_erase (h : CountedArena total nodes q) {a b : Nat} (ha : a ∈ q) (hb : b ∈ q.erase a) :
    countAt nodes a + (countAt nodes b + (((q.erase a).erase b).map (countAt nodes)).sum) = total := by
  have hperm : q.Perm (a :: b :: (q.erase a).erase b) :=
    (List.perm_cons_erase ha).trans ((List.perm_cons_erase hb).cons a)
  simpa using (hperm.map (countAt nodes)).sum_nat.symm.trans h.sum_counts

/-- The count of a merged entry does not wrap. -/
theorem CountedArena.mergedNode_count (ht : total < 2 ^ 32) (h : CountedArena total nodes q) {a b : Nat} (ha : a ∈ q)
    (hb : b ∈ q.erase a) : (mergedNode nodes a b).count.toNat = countAt nodes a + countAt nodes b := by
  have hsum := h.sum_erase ha hb
  rw [mergedNode, Node.count, BitVec.toNat_ofNat, Nat.mod_eq_of_lt (by omega)]

theorem CountedArena.merge (ht : total < 2 ^ 32) (h : CountedArena total nodes q) {a b : Nat} (ha : a ∈ q)
    (hb : b ∈ q.erase a) :
    CountedArena total (nodes ++ [mergedNode nodes a b]) ((q.erase a).erase b ++ [nodes.length]) := by
  have hlta := h.queued a ha
  have hltb := h.queued b (List.mem_of_mem_erase hb)
  have hold : ∀ n ∈ (q.erase a).erase b, n < nodes.length := fun n hn =>
    h.queued n (List.mem_of_mem_erase (List.mem_of_mem_erase hn))
  have hcount := h.mergedNode_count ht ha hb
  constructor
  case children =>
    intro n x y c hn
    rcases Nat.lt_or_ge n nodes.length with hlt | hge
    · rw [List.getElem?_append_left hlt] at hn
      obtain ⟨hx, hy, hxy, hc⟩ := h.children hn
      rw [countAt_append _ (hx.trans hlt), countAt_append _ (hy.trans hlt)]
      exact ⟨hx, hy, hxy, hc⟩
    · obtain rfl : n = nodes.length := by
        have hlt := (List.getElem?_eq_some_iff.mp hn).1
        rw [List.length_append, List.length_singleton] at hlt
        omega
      rw [List.getElem?_concat_length] at hn
      cases hn
      rw [countAt_append _ hlta, countAt_append _ hltb]
      exact ⟨hlta, hltb, ((h.nodup.mem_erase_iff).mp hb).1.symm, hcount⟩
  case queued =>
    intro n hn
    rw [List.length_append, List.length_singleton]
    rcases List.mem_append.mp hn with hn | hn
    · exact (hold n hn).trans (Nat.lt_succ_self _)
    · exact List.mem_singleton.mp hn ▸ Nat.lt_succ_self _
  case nodup =>
    refine ((h.nodup.erase a).erase b).append (List.nodup_singleton _) ?_
    exact List.disjoint_singleton.mpr fun hn => (hold _ hn).false
  case newest => simp
  case sum_counts =>
    have hsum := h.sum_erase ha hb
    have hrest : ((q.erase a).erase b).map (countAt (nodes ++ [mergedNode nodes a b])) =
        ((q.erase a).erase b).map (countAt nodes) := List.map_congr_left fun n hn => countAt_append _ (hold n hn)
    rw [List.map_append, List.sum_append, hrest, List.map_singleton, List.sum_singleton,
      countAt_of_getElem? List.getElem?_concat_length, hcount]
    omega

/-- The leaves of `ids`, all of them queued. -/
theorem leaves_counted (freq : Nat → Word) (ids : List Nat) :
    CountedArena (ids.map fun id => (freq id).toNat).sum (ids.map fun id => .leaf id (freq id))
      (List.range ids.length) where
  children h := by simp at h
  queued n hn := by simpa using hn
  nodup := List.nodup_range
  newest h := by
    have := List.length_pos_of_ne_nil h
    rw [List.length_map] at this
    rw [List.length_map, List.mem_range]
    omega
  sum_counts := by
    congr 1
    refine List.ext_getElem (by simp) fun n _ hn => ?_
    have hn : n < ids.length := by simpa using hn
    rw [List.getElem_map, List.getElem_range, List.getElem_map,
      countAt_of_getElem? (e := .leaf ids[n] (freq ids[n])) (by simp [hn])]
    rfl

theorem buildArena_counted (tie : TieRule) (freq : Nat → Word) (ids : List Nat)
    (ht : (ids.map fun id => (freq id).toNat).sum < 2 ^ 32) :
    let arena := buildArena tie (ids.map fun id => .leaf id (freq id))
    CountedArena (ids.map fun id => (freq id).toNat).sum arena.1 arena.2 := by
  unfold buildArena
  refine combine_induction tie (fun _ _ _ _ h ha hb => ?_) (by simp) (by simpa using leaves_counted freq ids)
  exact h.merge ht (leastNodes_subset _ _ ha) (leastNodes_subset _ _ hb)

/-- Merges append to the leaves. -/
theorem leaves_prefix_buildArena (tie : TieRule) (leaves : List Node) : leaves <+: (buildArena tie leaves).1 :=
  combine_induction (P := fun nodes _ => leaves <+: nodes) tie
    (fun _ _ _ _ h _ _ => h.trans (List.prefix_append ..)) (by simp) (List.prefix_refl leaves)

/-! ### The state that HUF_BUILD completes to -/

/-- What HUF_BUILD leaves when nothing is raised: the new tree, marked valid, and its results (R161). -/
def hufBuilt (s : State) : State :=
  { writeTree (clearTree s) with
    res0 := (writeTree (clearTree s)).nleaf
    res1 := (writeTree (clearTree s)).nnode
    vHuf := true }

theorem buildTree_alphabet (h : 65536 < s.nSym.toNat) :
    buildTree s = .raise (.operand s.nSym.toNat) (clearTree s) := by
  simp only [buildTree, clearTree_nSym, h, if_true]

theorem buildTree_foreign (h : s.nSym.toNat ≤ 65536) (hf : firstForeign s.nSym.toNat s.tokens = some id) :
    buildTree s = .raise (.operand id) (clearTree s) := by
  have hf : firstForeign s.nSym.toNat (clearTree s).tokens = some id := hf
  simp only [buildTree, clearTree_nSym, Nat.not_lt.mpr h, if_false, hf]

theorem buildTree_builds (h : s.nSym.toNat ≤ 65536) (ht : tokensInAlphabet s = true) :
    buildTree s = .ok () (writeTree (clearTree s)) := by
  have hf : firstForeign s.nSym.toNat (clearTree s).tokens = none :=
    firstForeign_eq_none (tokensInAlphabet_iff.mp ht)
  simp only [buildTree, clearTree_nSym, Nat.not_lt.mpr h, if_false, hf]

theorem execHufBuild_completes (ha : s.accepts false = true) (h : s.nSym.toNat ≤ 65536)
    (ht : tokensInAlphabet s = true) : execHufBuild s = .next (hufBuilt s) :=
  command_completes ha (by rw [buildTree_builds h ht]; rfl)

/-- HUF_BUILD completes only over an alphabet that fits and that holds every token. -/
theorem execHufBuild_completed (h : execHufBuild s = .next t) (he : t.err = 0) :
    s.nSym.toNat ≤ 65536 ∧ tokensInAlphabet s = true ∧ t = hufBuilt s := by
  obtain ⟨_, u, hu, hb⟩ := Res.bind_eq_ok.mp (command_completed h he)
  obtain ⟨hn, rfl⟩ := buildTree_ok hu
  cases hb
  refine ⟨hn, tokensInAlphabet_iff.mpr fun id hid => ?_, rfl⟩
  cases hf : firstForeign s.nSym.toNat s.tokens with
  | none => exact mem_of_firstForeign_eq_none hf hid
  | some j => cases (buildTree_foreign hn hf).symm.trans hu

theorem hufBuilt_freqOf (h : id < s.nSym.toNat) : (hufBuilt s).freqOf id = s.countOf id := by
  have hfreq : (hufBuilt s).freq = s.freq.fill s.nSym.toNat s.countOf := rfl
  rw [State.freqOf, hfreq, Memory.read_fill, if_pos h]

theorem mem_hufBuilt_visitedIds (ht : tokensInAlphabet s = true) :
    id ∈ (hufBuilt s).visitedIds ↔ Token.sym id ∈ s.tokens := by
  have hids : (hufBuilt s).visitedIds = _ := writeTree_visitedIds (clearTree s)
  rw [hids, List.mem_filter, List.mem_range, decide_eq_true_iff]
  exact ⟨fun h => countOf_ne_zero.mp h.2, fun h => ⟨tokensInAlphabet_iff.mp ht id h, countOf_ne_zero.mpr h⟩⟩

theorem hufBuilt_visitedIds_nodup (s : State) : (hufBuilt s).visitedIds.Nodup :=
  List.nodup_range.filter _

theorem hufBuilt_visitedIds_length_le (s : State) : (hufBuilt s).visitedIds.length ≤ s.nSym.toNat :=
  visitedIds_length_le (hufBuilt s)

theorem newLeaves_hufBuilt (s : State) :
    s.newLeaves = (hufBuilt s).visitedIds.map fun id => .leaf id (s.countOf id) :=
  newLeaves_eq (clearTree s)

/-- The counts of the visited symbols add up to the number of Sym tokens. -/
theorem sum_countOf_visitedIds (ht : tokensInAlphabet s = true) :
    ((hufBuilt s).visitedIds.map fun id => (s.countOf id).toNat).sum =
      s.tokens.countP (fun x => decide (x ≠ .split)) := by
  have hperm : ((hufBuilt s).visitedIds.map Token.sym).Perm
      (s.tokens.dedup.filter fun x => decide (x ≠ .split)) := by
    refine (List.perm_ext_iff_of_nodup ((hufBuilt_visitedIds_nodup s).map fun _ _ => Token.sym.inj)
      (s.tokens.nodup_dedup.filter _)).mpr fun tok => ?_
    cases tok <;> simp [mem_hufBuilt_visitedIds ht]
  rw [← List.sum_map_count_dedup_filter_eq_countP, ← (hperm.map _).sum_nat, List.map_map]
  simp only [countOf_toNat, Function.comp_def]

theorem countP_tokens_lt (s : State) (p : Token → Bool) : s.tokens.countP p < 2 ^ 32 :=
  (List.countP_le_length.trans_eq (tokens_length s)).trans_lt s.ssLen.isLt

theorem newArena_counted (ht : tokensInAlphabet s = true) :
    CountedArena (s.tokens.countP fun x => decide (x ≠ .split)) s.newArena.1 s.newArena.2 := by
  have hsum := sum_countOf_visitedIds ht
  have h := buildArena_counted s.tie s.countOf (hufBuilt s).visitedIds (hsum ▸ countP_tokens_lt s _)
  rw [← newLeaves_hufBuilt, hsum] at h
  exact h

theorem newArena_length (s : State) : s.newArena.1.length = 2 * (hufBuilt s).visitedIds.length - 1 := by
  have h := (buildArena_tree s.tie s.countOf (hufBuilt s).visitedIds).1
  rw [← newLeaves_hufBuilt] at h
  exact h

/-- What is left in the queue: nothing without a visited symbol, else the arena's last entry. -/
theorem newArena_queue (ht : tokensInAlphabet s = true) :
    ((hufBuilt s).visitedIds = [] ∧ s.newArena.2 = []) ∨
      ((hufBuilt s).visitedIds ≠ [] ∧ s.newArena.2 = [s.newArena.1.length - 1]) := by
  have hlen := newArena_length s
  have h := (buildArena_tree s.tie s.countOf (hufBuilt s).visitedIds).2
  rw [← newLeaves_hufBuilt] at h
  rcases h with ⟨hnil, hq⟩ | ⟨r, _, hq, hu, _⟩
  · exact .inl ⟨hnil, hq⟩
  · have hq : s.newArena.2 = [r] := hq
    have hr : r < s.newArena.1.length := hu.lt_length
    have hnew := (newArena_counted ht).newest (List.ne_nil_of_length_pos (by omega))
    rw [hq, List.mem_singleton] at hnew
    refine .inr ⟨fun hnil => ?_, by rw [hq, hnew]⟩
    rw [hnil, List.length_nil] at hlen
    omega

theorem hufBuilt_nleaf (h : s.nSym.toNat ≤ 65536) :
    (hufBuilt s).nleaf.toNat = (hufBuilt s).visitedIds.length := by
  have hle := hufBuilt_visitedIds_length_le s
  have hleaf : (hufBuilt s).nleaf = BitVec.ofNat 32 s.newLeaves.length := rfl
  rw [hleaf, newLeaves_hufBuilt, List.length_map, BitVec.toNat_ofNat, Nat.mod_eq_of_lt (by omega)]

theorem hufBuilt_nnode (h : s.nSym.toNat ≤ 65536) : (hufBuilt s).nnode.toNat = s.newArena.1.length := by
  have hle := hufBuilt_visitedIds_length_le s
  have hnode : (hufBuilt s).nnode = BitVec.ofNat 32 s.newArena.1.length := rfl
  rw [hnode, BitVec.toNat_ofNat, Nat.mod_eq_of_lt (by have := newArena_length s; omega)]

theorem hufBuilt_find (h : n < s.newArena.1.length) : (hufBuilt s).node.find n = s.newArena.1[n]? := by
  have hnode : (hufBuilt s).node =
    s.node.fill s.newArena.1.length (fun n => s.newArena.1.getD n (.leaf 0 0)) := rfl
  rw [hnode, Memory.find_fill, if_pos h, List.getElem?_eq_getElem h, List.getD_eq_getElem _ _ h]

/-- ROOT is the entry made last (R161). -/
theorem hufBuilt_root (h : s.nSym.toNat ≤ 65536) (ht : tokensInAlphabet s = true) :
    (hufBuilt s).root = if (hufBuilt s).nleaf = 0 then noneWord else (hufBuilt s).nnode - 1 := by
  have hleaf := hufBuilt_nleaf h
  have hroot : (hufBuilt s).root = rootOf s.newArena.2 := rfl
  have hnode : (hufBuilt s).nnode = BitVec.ofNat 32 s.newArena.1.length := rfl
  rcases newArena_queue ht with ⟨hnil, hq⟩ | ⟨hne, hq⟩
  · rw [hnil] at hleaf
    rw [hroot, hq, if_pos (BitVec.eq_of_toNat_eq hleaf)]
    rfl
  · have hpos := List.length_pos_of_ne_nil hne
    have hlen := newArena_length s
    have hne : (hufBuilt s).nleaf ≠ 0 := fun e => by
      rw [← hleaf, e] at hpos
      cases hpos
    rw [hroot, hq, if_neg hne, hnode, rootOf]
    have hle := hufBuilt_visitedIds_length_le s
    bv_omega

/-- The entries before the merges' are the leaves, in the order of their symbols (R45). -/
theorem hufBuilt_leaves (s : State) :
    (List.range (hufBuilt s).visitedIds.length).map (hufBuilt s).node.find =
      (hufBuilt s).visitedIds.map fun id => some (.leaf id ((hufBuilt s).freqOf id)) := by
  obtain ⟨more, harena⟩ : s.newLeaves <+: s.newArena.1 := leaves_prefix_buildArena s.tie s.newLeaves
  refine List.ext_getElem (by simp) fun n hn _ => ?_
  have hn : n < (hufBuilt s).visitedIds.length := by simpa using hn
  have hsym : (hufBuilt s).visitedIds[n] < s.nSym.toNat :=
    List.mem_range.mp (List.mem_of_mem_filter (List.getElem_mem hn))
  have hlt : n < s.newArena.1.length := by have := newArena_length s; omega
  rw [List.getElem_map, List.getElem_range, List.getElem_map, hufBuilt_find hlt, ← harena,
    List.getElem?_append_left (by rwa [newLeaves_hufBuilt, List.length_map]), newLeaves_hufBuilt,
    List.getElem?_map, List.getElem?_eq_getElem hn, hufBuilt_freqOf hsym]
  rfl

/-- Settles O37, from the equations of the state that HUF_BUILD completes to. -/
theorem hufBuildCountsAndBuilds : Obligations.HufBuildCountsAndBuilds := by
  refine ⟨rfl, fun s ha h ht => ⟨hufBuilt s, execHufBuild_completes ha h ht, rfl, rfl, fun id hid => ?_,
    hufBuilt_nleaf h, ?_, ?_, hufBuilt_root h ht, rfl, rfl⟩⟩
  · rw [hufBuilt_freqOf hid, countOf_toNat]
  · rw [hufBuilt_nleaf h, hufBuilt_leaves]
  · rw [hufBuilt_nnode h, hufBuilt_nleaf h, newArena_length]

/-- An internal entry of NODE has two earlier entries as children, and its count is theirs together (R164). -/
theorem hufBuilt_children (h : s.nSym.toNat ≤ 65536) (ht : tokensInAlphabet s = true) {a b : Nat} {c : Word}
    (hn : n < (hufBuilt s).nnode.toNat) (hf : (hufBuilt s).node.find n = some (.internal a b c)) :
    a < n ∧ b < n ∧ a ≠ b ∧ ∃ ea eb, (hufBuilt s).node.find a = some ea ∧ (hufBuilt s).node.find b = some eb ∧
      c.toNat = ea.count.toNat + eb.count.toNat := by
  rw [hufBuilt_nnode h] at hn
  rw [hufBuilt_find hn] at hf
  obtain ⟨ha, hb, hab, hc⟩ := (newArena_counted ht).children hf
  have hea := List.getElem?_eq_getElem (ha.trans hn)
  have heb := List.getElem?_eq_getElem (hb.trans hn)
  rw [countAt_of_getElem? hea, countAt_of_getElem? heb] at hc
  exact ⟨ha, hb, hab, _, _, (hufBuilt_find (ha.trans hn)).trans hea, (hufBuilt_find (hb.trans hn)).trans heb, hc⟩

/-- The entry under ROOT counts every Sym token (R164). -/
theorem hufBuilt_root_count (h : s.nSym.toNat ≤ 65536) (ht : tokensInAlphabet s = true)
    (hroot : (hufBuilt s).root ≠ noneWord) :
    ∃ e, (hufBuilt s).node.find (hufBuilt s).root.toNat = some e ∧
      e.count.toNat = s.tokens.countP (fun x => decide (x ≠ .split)) := by
  have harena := newArena_counted ht
  rcases newArena_queue ht with ⟨_, hq⟩ | ⟨_, hq⟩
  · exact absurd (congrArg rootOf hq) hroot
  · have hlt := harena.queued _ (hq ▸ List.mem_singleton_self _)
    have hget := List.getElem?_eq_getElem hlt
    have hr : (hufBuilt s).root.toNat = s.newArena.1.length - 1 := by
      have hr : (hufBuilt s).root = BitVec.ofNat 32 (s.newArena.1.length - 1) := congrArg rootOf hq
      have hnode := hufBuilt_nnode h
      rw [hr, BitVec.toNat_ofNat, Nat.mod_eq_of_lt (by omega)]
    refine ⟨_, by rw [hr, hufBuilt_find hlt, hget], ?_⟩
    rw [← countAt_of_getElem? hget, ← harena.sum_counts, hq, List.map_singleton, List.sum_singleton]

/-- Settles O38: the tree that HUF_BUILD's body leaves, and the counts, which every merge keeps. -/
theorem hufBuildTreeHasVisitedLeaves : Obligations.HufBuildTreeHasVisitedLeaves := by
  intro s t _ hexec he
  obtain ⟨h, ht, rfl⟩ := execHufBuild_completed hexec he
  exact ⟨writeTree_tree (s := clearTree s) h, fun _ _ _ _ => hufBuilt_children h ht, hufBuilt_root_count h ht⟩

/-! ### The faults of the tree part -/

theorem command_buildTree_faults {c : Cause} {spoil : State → State → State} {k : Unit → State → Res Unit}
    (ha : s.accepts false = true) (hb : buildTree s = .raise c (clearTree s)) :
    command false spoil (fun s => (buildTree s).bind k) s = .next (takeFault c (spoil s (clearTree s))) :=
  command_faults ha (by rw [hb, Res.bind_raise])

/-- A fault of the tree part ends either command, with the flags that its start cleared (R272, R274). -/
theorem treeCommand_faults {i : Instr} {c : Cause} (hi : i ∈ [Instr.hufBuild, .estSize])
    (ha : s.accepts false = true) (hb : buildTree s = .raise c (clearTree s)) :
    FaultsWith (exec i s) c ∧ ∀ t, exec i s = .next t → t.vHuf = false ∧ t.vSer = false := by
  have hexec : ∃ u, exec i s = .next (takeFault c u) ∧ u.vHuf = false ∧ u.vSer = false := by
    simp only [List.mem_cons, List.not_mem_nil, or_false] at hi
    rcases hi with rfl | rfl
    · exact ⟨spoilHufBuild s.countedIds.length s (clearTree s), command_buildTree_faults ha hb, rfl, rfl⟩
    · exact ⟨spoilEstSize s.countedIds s (clearTree s), command_buildTree_faults ha hb, rfl, rfl⟩
  obtain ⟨u, hu, hflags⟩ := hexec
  refine ⟨⟨_, hu, rfl, rfl, rfl⟩, fun t ht => ?_⟩
  rw [hu] at ht
  cases ht
  exact hflags

/-- Settles O39: either fault is raised before anything but the flags is written. -/
theorem treeBuildFaults : Obligations.TreeBuildFaults := by
  refine fun s ha i hi => ⟨fun h => treeCommand_faults hi ha (buildTree_alphabet h), ?_⟩
  intro k id h hk htok hid hbefore
  refine treeCommand_faults hi ha (buildTree_foreign h ?_)
  refine firstForeign_eq_some ((tokens_getElem? hk).trans (congrArg some htok)) hid fun j hj m hm => ?_
  rw [tokens_getElem? (hj.trans hk)] at hm
  exact hbefore j hj m (Option.some.inj hm)

/-! ### Trees of height 0 -/

/-- Over a stream of one symbol only that symbol can be visited. -/
theorem hufBuilt_visitedIds_of_one {x : Nat} (ht : tokensInAlphabet s = true)
    (hone : ∀ id, Token.sym id ∈ s.tokens → id = x) :
    (hufBuilt s).visitedIds = if Token.sym x ∈ s.tokens then [x] else [] := by
  split
  · next hx =>
    refine List.perm_singleton.mp ((List.perm_ext_iff_of_nodup (hufBuilt_visitedIds_nodup s)
      (List.nodup_singleton x)).mpr fun id => ?_)
    rw [mem_hufBuilt_visitedIds ht, List.mem_singleton]
    exact ⟨hone id, fun h => h ▸ hx⟩
  · next hx =>
    refine List.eq_nil_iff_forall_not_mem.mpr fun id hid => hx ?_
    have hid := (mem_hufBuilt_visitedIds ht).mp hid
    exact hone id hid ▸ hid

theorem hufBuilt_tree_of_nil (h : s.nSym.toNat ≤ 65536) (ht : tokensInAlphabet s = true)
    (hids : (hufBuilt s).visitedIds = []) :
    (hufBuilt s).nleaf = 0 ∧ (hufBuilt s).nnode = 0 ∧ (hufBuilt s).root = noneWord ∧
      (hufBuilt s).tree = some none := by
  have hleaf : (hufBuilt s).nleaf = 0 := BitVec.eq_of_toNat_eq (by rw [hufBuilt_nleaf h, hids]; rfl)
  have hnode : (hufBuilt s).nnode = 0 :=
    BitVec.eq_of_toNat_eq (by rw [hufBuilt_nnode h, newArena_length, hids]; rfl)
  have hroot : (hufBuilt s).root = noneWord := by rw [hufBuilt_root h ht, if_pos hleaf]
  exact ⟨hleaf, hnode, hroot, by rw [State.tree, if_pos hroot]⟩

theorem hufBuilt_tree_of_singleton {x : Nat} (h : s.nSym.toNat ≤ 65536) (ht : tokensInAlphabet s = true)
    (hids : (hufBuilt s).visitedIds = [x]) :
    (hufBuilt s).nleaf = 1 ∧ (hufBuilt s).nnode = 1 ∧ (hufBuilt s).root = 0 ∧
      (hufBuilt s).tree = some (some (.leaf x ((hufBuilt s).freqOf x))) := by
  have hleaf : (hufBuilt s).nleaf = 1 := BitVec.eq_of_toNat_eq (by rw [hufBuilt_nleaf h, hids]; rfl)
  have hnode : (hufBuilt s).nnode = 1 :=
    BitVec.eq_of_toNat_eq (by rw [hufBuilt_nnode h, newArena_length, hids]; rfl)
  have hroot : (hufBuilt s).root = 0 := by
    rw [hufBuilt_root h ht, hleaf, hnode]
    rfl
  have hfind : (hufBuilt s).node.find 0 = some (.leaf x ((hufBuilt s).freqOf x)) := by
    have hleaves := hufBuilt_leaves s
    rw [hids] at hleaves
    exact (List.cons.inj hleaves).1
  refine ⟨hleaf, hnode, hroot, ?_⟩
  rw [State.tree, hroot, hnode, if_neg (by decide)]
  simp [treeAt, hfind]

/-- Settles O40: without a merge the only entry is the leaf, at depth 0, whose share of `tree_bits` is 0. -/
theorem heightZeroTrees : Obligations.HeightZeroTrees := by
  intro s x ha h hx hall
  have hone : ∀ id, Token.sym id ∈ s.tokens → id = x := fun id hid => by
    simpa using List.all_eq_true.mp hall _ hid
  have ht : tokensInAlphabet s = true := tokensInAlphabet_iff.mpr fun id hid => hone id hid ▸ hx
  have hids := hufBuilt_visitedIds_of_one ht hone
  have hnone : Token.sym x ∉ s.tokens → _ := fun hn => hufBuilt_tree_of_nil h ht (hids.trans (if_neg hn))
  have hleaf : Token.sym x ∈ s.tokens → _ := fun hm => hufBuilt_tree_of_singleton h ht (hids.trans (if_pos hm))
  have hbits : ∃ tr, (hufBuilt s).tree = some tr ∧ treeBits tr = 0 := by
    by_cases hm : Token.sym x ∈ s.tokens
    · obtain ⟨_, _, _, htree⟩ := hleaf hm
      exact ⟨_, htree, rfl⟩
    · obtain ⟨_, _, _, htree⟩ := hnone hm
      exact ⟨_, htree, rfl⟩
  obtain ⟨tr, htree, hzero⟩ := hbits
  refine ⟨hufBuilt s, execHufBuild_completes ha h ht, rfl, hnone, hleaf, _,
    execHufBits_completes ha rfl htree, ?_, ?_⟩
  · rw [hzero]; rfl
  · rw [hzero]; rfl

end Sys2Proof.Machine
end

section
/-! SUPPORT. Suffix selection (43_serializer R181 to R183, R194): what one candidate does to the best so far, what
`sfx_all` leaves in SFX, the chains its links make, and the obligations about them. -/

namespace Sys2Proof.Machine

open Sys2Proof.Safety

variable {s t : State} {id n v : Nat}

/-! ### Arrays written entry by entry -/

section Written

variable {α ι : Type} {key : ι → Nat} {val : ι → α}

theorem Memory.find_foldl_write_other (m : Memory α) {l : List ι} {a : Nat} (h : a ∉ l.map key) :
    (l.foldl (fun m x => m.write (key x) (val x)) m).find a = m.find a := by
  induction l generalizing m with
  | nil => rfl
  | cons x rest ih =>
    rw [List.map_cons, List.mem_cons, not_or] at h
    rw [List.foldl_cons, ih _ h.2, Memory.find_write_other _ _ h.1]

/-- Under distinct addresses, each entry written is found afterwards. -/
theorem Memory.find_foldl_write (m : Memory α) {l : List ι} (hl : (l.map key).Nodup) {x : ι} (hx : x ∈ l) :
    (l.foldl (fun m x => m.write (key x) (val x)) m).find (key x) = some (val x) := by
  induction l generalizing m with
  | nil => cases hx
  | cons y rest ih =>
    obtain ⟨hy, hrest⟩ := List.nodup_cons.mp hl
    rw [List.foldl_cons]
    rcases List.mem_cons.mp hx with rfl | hx
    · rw [Memory.find_foldl_write_other _ hy, Memory.find_write_same]
    · exact ih _ hrest hx

theorem Memory.read_foldl_write_other (free : Nat → Nat → α) (m : Memory α) {l : List ι} {a : Nat}
    (h : a ∉ l.map key) : (l.foldl (fun m x => m.write (key x) (val x)) m).read free a = m.read free a := by
  have hblurs : (l.foldl (fun m x => m.write (key x) (val x)) m).blurs = m.blurs :=
    List.foldlRecOn (motive := fun w : Memory α => w.blurs = m.blurs) _ _ rfl fun _ hw _ _ => hw
  rw [Memory.read, Memory.read, Memory.find_foldl_write_other m h, hblurs]

theorem Memory.read_foldl_write (free : Nat → Nat → α) (m : Memory α) {l : List ι} (hl : (l.map key).Nodup)
    {x : ι} (hx : x ∈ l) : (l.foldl (fun m x => m.write (key x) (val x)) m).read free (key x) = val x := by
  rw [Memory.read, Memory.find_foldl_write m hl hx]

end Written

/-! ### The best suffix -/

/-- An id of the alphabet replaces the best so far when it is a candidate and longer (R181). -/
theorem suffixStep_candidate {best : Word × Nat} (h : IsCandidate s id n)
    (hlt : best.2 < s.symLen n) : suffixStep s id best n = (BitVec.ofNat 32 n, s.symLen n) := by
  obtain ⟨_, hne, hfreq, hlen, hmin, hbytes⟩ := h
  simp only [suffixStep, hne, hfreq, Nat.not_le.mpr hlen, Nat.not_lt.mpr hmin, hbytes, hlt, if_false, if_true, ne_eq,
    not_true_eq_false]

theorem suffixStep_keeps {best : Word × Nat} (hn : n < s.nSym.toNat)
    (h : IsCandidate s id n → s.symLen n ≤ best.2) : suffixStep s id best n = best := by
  simp only [suffixStep, ite_eq_left_iff, ite_eq_right_iff, ne_eq, not_not]
  intro hne hfreq hlen hmin hbytes hlt
  exact absurd (h ⟨hn, hne, hfreq, by omega, by omega, hbytes⟩) (by omega)

/-- `best` is the longest candidate below `n`, the lowest id among equals, or (NONE, 0) (R181). -/
structure BestBelow (s : State) (id n : Nat) (best : Word × Nat) : Prop where
  none : best.2 = 0 → best.1 = noneWord
  some : best.2 ≠ 0 → ∃ t, best.1 = BitVec.ofNat 32 t ∧ IsCandidate s id t ∧ s.symLen t = best.2 ∧
    ∀ u, u < t → IsCandidate s id u → s.symLen u < best.2
  longest : ∀ u < n, IsCandidate s id u → s.symLen u ≤ best.2

theorem BestBelow.step {best : Word × Nat} (h : BestBelow s id n best) (hn : n < s.nSym.toNat) :
    BestBelow s id (n + 1) (suffixStep s id best n) := by
  by_cases hc : IsCandidate s id n ∧ best.2 < s.symLen n
  · obtain ⟨hc, hlt⟩ := hc
    rw [suffixStep_candidate hc hlt]
    refine ⟨fun h0 => absurd hlt (by dsimp only at h0; omega), fun _ => ?_, fun u hu hcu => ?_⟩
    · exact ⟨n, rfl, hc, rfl, fun u hu hcu => (h.longest u hu hcu).trans_lt hlt⟩
    · rcases Nat.lt_succ_iff_lt_or_eq.mp hu with hu | rfl
      · exact (h.longest u hu hcu).trans hlt.le
      · exact le_rfl
  · have hle : IsCandidate s id n → s.symLen n ≤ best.2 := fun hcn => Nat.not_lt.mp fun hlt => hc ⟨hcn, hlt⟩
    rw [suffixStep_keeps hn hle]
    refine ⟨h.none, h.some, fun u hu hcu => ?_⟩
    rcases Nat.lt_succ_iff_lt_or_eq.mp hu with hu | rfl
    · exact h.longest u hu hcu
    · exact hle hcu

theorem bestBelow_foldl (h : n ≤ s.nSym.toNat) :
    BestBelow s id n ((List.range n).foldl (suffixStep s id) (noneWord, 0)) := by
  induction n with
  | zero => exact ⟨fun _ => rfl, fun h0 => absurd rfl h0, nofun⟩
  | succ n ih =>
    rw [List.range_succ, List.foldl_append]
    exact (ih (by omega)).step (by omega)

theorem bestSuffix_best (s : State) (id : Nat) : BestBelow s id s.nSym.toNat (bestSuffix s id) :=
  bestBelow_foldl le_rfl

/-- Settles O42: the best below N_SYM is the best of all, since every candidate is an id of the alphabet. -/
theorem bestSuffixIsLongestCandidate : Obligations.BestSuffixIsLongestCandidate := by
  intro s id
  obtain ⟨hnone, hsome, hlongest⟩ := bestSuffix_best s id
  exact ⟨hnone, hsome, fun u hu => hlongest u hu.1 hu⟩

/-- A best suffix that is not NONE is a candidate with a byte. -/
theorem bestSuffix_isCandidate (h : (bestSuffix s id).1 ≠ noneWord) :
    IsCandidate s id (bestSuffix s id).1.toNat ∧ s.symLen (bestSuffix s id).1.toNat ≠ 0 := by
  obtain ⟨hnone, hsome, _⟩ := bestSuffix_best s id
  have hpos : (bestSuffix s id).2 ≠ 0 := fun h0 => h (hnone h0)
  obtain ⟨t, ht, hc, hlen, _⟩ := hsome hpos
  have hlt : t < 2 ^ 32 := hc.1.trans s.nSym.isLt
  rw [ht, BitVec.toNat_ofNat, Nat.mod_eq_of_lt hlt]
  exact ⟨hc, hlen ▸ hpos⟩

/-! ### What `sfx_all` writes -/

theorem mem_visitedIds : id ∈ s.visitedIds ↔ s.visited id = true := by
  simp [State.visitedIds, State.visited]

theorem visitedIds_nodup (s : State) : s.visitedIds.Nodup := List.nodup_range.filter _

theorem writeSfx_sfxOf_visited (h : s.visited v = true) : (writeSfx s).sfxOf v = (bestSuffix s v).1 :=
  Memory.read_foldl_write (key := fun id => id) _ _ (by rw [List.map_id']; exact visitedIds_nodup s)
    (mem_visitedIds.mpr h)

theorem writeSfx_sfxOf_unvisited (h : s.visited v = false) : (writeSfx s).sfxOf v = s.sfxOf v :=
  Memory.read_foldl_write_other (key := fun id => id) _ _
    (by rw [List.map_id', mem_visitedIds, h]; exact Bool.false_ne_true)

/-- A link leads to a visited symbol that is shorter, has a byte, and is the tail of the bytes (R183, R194). -/
theorem writeSfx_link (hv : s.visited v = true) (h : (writeSfx s).sfxOf v ≠ noneWord) :
    IsCandidate s v ((writeSfx s).sfxOf v).toNat ∧ s.visited ((writeSfx s).sfxOf v).toNat = true ∧
      s.symLen ((writeSfx s).sfxOf v).toNat ≠ 0 := by
  rw [writeSfx_sfxOf_visited hv] at h ⊢
  obtain ⟨hc, hpos⟩ := bestSuffix_isCandidate h
  obtain ⟨hlt, _, hfreq, _⟩ := id hc
  exact ⟨hc, Bool.and_eq_true_iff.mpr ⟨decide_eq_true hlt, decide_eq_true hfreq⟩, hpos⟩

theorem symLen_le (s : State) (id : Nat) : s.symLen id ≤ 255 := Nat.lt_succ_iff.mp (BitVec.isLt _)

/-- Along a chain of links the lengths fall by at least one per link, and the last symbol still has a byte (R194). -/
theorem chain_length {f : Nat → Nat} (h0 : s.visited (f 0) = true)
    (hf : ∀ k, k < n → (writeSfx s).sfxOf (f k) ≠ noneWord ∧ f (k + 1) = ((writeSfx s).sfxOf (f k)).toNat) :
    s.visited (f n) = true ∧ s.symLen (f n) + n ≤ s.symLen (f 0) ∧ (n ≠ 0 → s.symLen (f n) ≠ 0) := by
  induction n with
  | zero => exact ⟨h0, le_rfl, fun h => absurd rfl h⟩
  | succ n ih =>
    obtain ⟨hv, hlen, _⟩ := ih fun k hk => hf k (by omega)
    obtain ⟨hlink, hnext⟩ := hf n (by omega)
    obtain ⟨hc, hvisited, hpos⟩ := writeSfx_link hv hlink
    obtain ⟨_, _, _, hshorter, _⟩ := hc
    rw [hnext]
    exact ⟨hvisited, by omega, fun _ => hpos⟩

/-- Settles O43: a link is a candidate, so lengths fall along a chain, from 255 at most to 1 at least. -/
theorem suffixChainsShortenAndEnd : Obligations.SuffixChainsShortenAndEnd := by
  refine fun s => ⟨fun v => ?_, fun v hv h => ?_, fun f n h0 hf => ?_⟩
  · cases hv : s.visited v with
    | true => exact writeSfx_sfxOf_visited hv
    | false => exact writeSfx_sfxOf_unvisited hv
  · obtain ⟨⟨_, _, _, hshorter, _, htail⟩, hvisited, _⟩ := writeSfx_link hv h
    exact ⟨hvisited, hshorter, by rw [htail, List.take_append_drop]⟩
  · obtain ⟨_, hlen, hpos⟩ := chain_length h0 hf
    have hmax := symLen_le s (f 0)
    omega

/-! ### SFX_FIND -/

theorem execSfxFind_finds (ha : s.accepts false = true) (hv : s.vHuf = true) (hn : s.nSym.toNat ≤ 65536)
    (hid : s.arg0.toNat < s.nSym.toNat) (hlen : s.symLen s.arg0.toNat ≠ 0) :
    execSfxFind s = .next { s with
      res0 := (bestSuffix s s.arg0.toNat).1
      res1 := BitVec.ofNat 32 (bestSuffix s s.arg0.toNat).2 } :=
  command_completes ha (by rw [if_pos hv, if_neg (by omega), if_neg (by omega)])

theorem execSfxFind_operand (ha : s.accepts false = true) (hv : s.vHuf = true) (hn : s.nSym.toNat ≤ 65536)
    (h : s.nSym.toNat ≤ s.arg0.toNat ∨ s.symLen s.arg0.toNat = 0) :
    FaultsWith (execSfxFind s) (.operand s.arg0.toNat) :=
  command_faultsWith (t := s) ha (by rw [if_pos hv, if_neg (by omega), if_pos h])

theorem execSfxFind_invalid (ha : s.accepts false = true) (hv : s.vHuf = false) :
    FaultsWith (execSfxFind s) (.stateFault 0x40) :=
  command_faultsWith (t := s) ha (by simp only [hv, Bool.false_eq_true, if_false])

/-- Settles O44, check by check in the order of R182. -/
theorem sfxFindReturnsBestSuffix : Obligations.SfxFindReturnsBestSuffix :=
  ⟨rfl, fun _ ha => ⟨execSfxFind_invalid ha, execSfxFind_finds ha, execSfxFind_operand ha⟩⟩

end Sys2Proof.Machine
end

section
/-! SUPPORT. The size estimator (43_serializer R184 to R186, R193): leaf and node sizes case by case, what SER_SIZE,
SER_BUILD and EST_SIZE do in common up to the table's size (`measured`), and the obligations about them. -/

namespace Sys2Proof.Machine

open Sys2Proof.Safety

variable {s t : State} {id n sa sb : Nat} {a b : HTree} {tr : Option HTree} {c : Cause}

/-! ### Sizes -/

theorem leafSize_leafB (h : s.symLen id = 1) : leafSize s id = 2 := by rw [leafSize, if_pos h]

theorem leafSize_leafS (h : s.symLen id ≠ 1) (hs : s.sfxOf id = noneWord) : leafSize s id = 2 + s.symLen id := by
  rw [leafSize, if_neg h, if_pos hs]

theorem leafSize_leafX (h : s.symLen id ≠ 1) (hs : s.sfxOf id ≠ noneWord) :
    leafSize s id = 4 + s.symLen id - s.symLen (s.sfxOf id).toNat := by
  rw [leafSize, if_neg h, if_neg hs]

theorem treeSize_node_left_error (ha : treeSize s a = .error c) : treeSize s (.node a b) = .error c := by
  simp only [treeSize, ha]

theorem treeSize_node_right_error (ha : treeSize s a = .ok sa) (hb : treeSize s b = .error c) :
    treeSize s (.node a b) = .error c := by simp only [treeSize, ha, hb]

/-- The size of a node is that of its skip field and its subtrees (R185, 30_encoding R95). -/
theorem treeSize_node (ha : treeSize s a = .ok sa) (hb : treeSize s b = .ok sb) (h : min sa sb + 1 ≤ 65535) :
    treeSize s (.node a b) = .ok ((skipField (min sa sb + 1)).length + sa + sb) := by
  simp only [treeSize, ha, hb, vliSize, Nat.not_lt.mpr h, if_false, skipField]
  split <;> rfl

theorem treeSize_node_limit (ha : treeSize s a = .ok sa) (hb : treeSize s b = .ok sb) (h : 65535 < min sa sb + 1) :
    treeSize s (.node a b) = .error (.formatLimit ((min sa sb + 1) % 2 ^ 32)) := by
  simp only [treeSize, ha, hb, vliSize, h, if_true]

/-- A node that has a size has subtrees that have one, and a skip value that fits 16 bits (R185). -/
theorem treeSize_node_ok (h : treeSize s (.node a b) = .ok n) :
    ∃ sa sb, treeSize s a = .ok sa ∧ treeSize s b = .ok sb ∧ min sa sb + 1 ≤ 65535 ∧
      n = (skipField (min sa sb + 1)).length + sa + sb := by
  cases ha : treeSize s a with
  | error c => cases (treeSize_node_left_error ha).symm.trans h
  | ok sa =>
    cases hb : treeSize s b with
    | error c => cases (treeSize_node_right_error ha hb).symm.trans h
    | ok sb =>
      by_cases hlim : 65535 < min sa sb + 1
      · cases (treeSize_node_limit ha hb hlim).symm.trans h
      · have hlim := Nat.not_lt.mp hlim
        exact ⟨sa, sb, rfl, rfl, hlim, (Except.ok.inj ((treeSize_node ha hb hlim).symm.trans h)).symm⟩

/-- What the text of a table and the places of its entries depend on, beside the tree: TBASE, ST and SFX. -/
def tablePart (s : State) := (s.tbase, s.stLen, s.stData, s.sfx)

section TablePart

variable (h : tablePart t = tablePart s)
include h

theorem tbase_congr : t.tbase = s.tbase := congrArg (fun p => p.1) h

theorem symLen_congr (id : Nat) : t.symLen id = s.symLen id := by
  have hlen : t.stLen = s.stLen := congrArg (fun p => p.2.1) h
  rw [State.symLen, State.symLen, hlen]

theorem sfxOf_congr (id : Nat) : t.sfxOf id = s.sfxOf id := by
  have hsfx : t.sfx = s.sfx := congrArg (fun p => p.2.2.2) h
  rw [State.sfxOf, State.sfxOf, hsfx]

theorem leafSize_congr (id : Nat) : leafSize t id = leafSize s id := by
  simp only [leafSize, symLen_congr h, sfxOf_congr h]

theorem treeSize_congr (a : HTree) : treeSize t a = treeSize s a := by
  induction a with
  | leaf id _ => rw [treeSize, treeSize, leafSize_congr h]
  | node a b iha ihb => simp only [treeSize, iha, ihb]

theorem tableSize_congr (tr : Option HTree) : tableSize t tr = tableSize s tr := by
  cases tr with
  | none => rfl
  | some a => exact treeSize_congr h a

end TablePart

/-- V_SER, which SER_BUILD clears at its start, plays no part in its table. -/
theorem writeSfx_clearTable (s : State) : tablePart (writeSfx (clearTable s)) = tablePart (writeSfx s) := rfl

/-! ### What SER_SIZE, SER_BUILD and EST_SIZE have in common -/

theorem visitedHaveBytes_iff : visitedHaveBytes s = true ↔ ∀ id, s.visited id = true → s.symLen id ≠ 0 := by
  simp only [visitedHaveBytes, List.all_eq_true, mem_visitedIds, decide_eq_true_eq]

/-- `sfx_all` looks for the first visited symbol without bytes (R183). -/
theorem find_visitedIds_eq_none (h : visitedHaveBytes s = true) :
    s.visitedIds.find? (fun id => decide (s.symLen id = 0)) = none := by
  simpa only [List.find?_eq_none, decide_eq_true_eq, mem_visitedIds] using visitedHaveBytes_iff.mp h

theorem find_visitedIds_eq_some (hv : s.visited id = true) (h0 : s.symLen id = 0)
    (hfirst : ∀ j, j < id → s.visited j = true → s.symLen j ≠ 0) :
    s.visitedIds.find? (fun id => decide (s.symLen id = 0)) = some id := by
  simp only [State.visited, Bool.and_eq_true, decide_eq_true_eq] at hv hfirst
  obtain ⟨hlt, hfreq⟩ := hv
  rw [State.visitedIds, List.find?_filter, List.find?_range_eq_some]
  refine ⟨decide_eq_true ⟨decide_eq_true hfreq, decide_eq_true h0⟩, List.mem_range.mpr hlt, fun j hj => ?_⟩
  have hj' := hfirst j hj
  have hjlt : j < s.nSym.toNat := hj.trans hlt
  simpa [hjlt, or_iff_not_imp_left] using hj'

theorem sfxAll_writes (hn : s.nSym.toNat ≤ 65536) (hb : visitedHaveBytes s = true) :
    sfxAll s = .ok () (writeSfx s) := by
  rw [sfxAll, if_neg (Nat.not_lt.mpr hn), find_visitedIds_eq_none hb]

theorem sfxAll_operand (hn : s.nSym.toNat ≤ 65536) (hv : s.visited id = true) (h0 : s.symLen id = 0)
    (hfirst : ∀ j, j < id → s.visited j = true → s.symLen j ≠ 0) : sfxAll s = .raise (.operand id) s := by
  rw [sfxAll, if_neg (Nat.not_lt.mpr hn), find_visitedIds_eq_some hv h0 hfirst]

theorem sfxAll_ok_haveBytes {x : Unit} (h : sfxAll s = .ok x t) :
    s.nSym.toNat ≤ 65536 ∧ visitedHaveBytes s = true := by
  unfold sfxAll at h
  split at h
  · cases h
  · next hn =>
    split at h
    · cases h
    · next hnone =>
      simp only [List.find?_eq_none, decide_eq_true_eq, mem_visitedIds] at hnone
      exact ⟨Nat.not_lt.mp hn, visitedHaveBytes_iff.mpr hnone⟩

/-- SFX, then the tree and the size of its table, then `k` (R186, R190, R193). -/
def measured (k : Option HTree → Nat → State → Res Unit) (s : State) : Res Unit :=
  (sfxAll s).bind fun _ s => withTree (fun tr s => (Res.ofExcept (tableSize s tr) s).bind fun n s => k tr n s) s

variable {k : Option HTree → Nat → State → Res Unit}

theorem measured_sizes (hn : s.nSym.toNat ≤ 65536) (hb : visitedHaveBytes s = true) (ht : s.tree = some tr) :
    measured k s = (Res.ofExcept (tableSize (writeSfx s) tr) (writeSfx s)).bind fun n s => k tr n s := by
  have ht : (writeSfx s).tree = some tr := ht
  rw [measured, sfxAll_writes hn hb, Res.bind_ok, withTree, ht]

theorem measured_ok (hn : s.nSym.toNat ≤ 65536) (hb : visitedHaveBytes s = true) (ht : s.tree = some tr)
    (hsize : tableSize (writeSfx s) tr = .ok n) : measured k s = k tr n (writeSfx s) := by
  rw [measured_sizes hn hb ht, hsize, Res.ofExcept, Res.bind_ok]

theorem measured_limit (hn : s.nSym.toNat ≤ 65536) (hb : visitedHaveBytes s = true) (ht : s.tree = some tr)
    (hsize : tableSize (writeSfx s) tr = .error c) : measured k s = .raise c (writeSfx s) := by
  rw [measured_sizes hn hb ht, hsize, Res.ofExcept, Res.bind_raise]

theorem measured_operand (hn : s.nSym.toNat ≤ 65536) (hv : s.visited id = true) (h0 : s.symLen id = 0)
    (hfirst : ∀ j, j < id → s.visited j = true → s.symLen j ≠ 0) : measured k s = .raise (.operand id) s := by
  rw [measured, sfxAll_operand hn hv h0 hfirst, Res.bind_raise]

/-- The common part goes on only past every check (R183, R185). -/
theorem measured_completed {x : Unit} (h : measured k s = .ok x t) :
    visitedHaveBytes s = true ∧ ∃ tr n, s.tree = some tr ∧ tableSize (writeSfx s) tr = .ok n ∧
      k tr n (writeSfx s) = .ok x t := by
  obtain ⟨_, u, hu, h⟩ := Res.bind_eq_ok.mp h
  obtain ⟨_, hb⟩ := sfxAll_ok_haveBytes hu
  rw [sfxAll_ok hu] at h
  refine ⟨hb, ?_⟩
  unfold withTree at h
  split at h
  · next tr htree =>
    obtain ⟨n, _, he, h⟩ := Res.bind_eq_ok.mp h
    obtain ⟨hsize, rfl⟩ := Res.ofExcept_eq_ok.mp he
    exact ⟨tr, n, htree, hsize, h⟩
  · cases h

/-! ### SER_SIZE, and SER_BUILD up to its estimate -/

/-- What SER_SIZE writes at its end (R186). -/
def writeSize (_ : Option HTree) (n : Nat) (s : State) : Res Unit := .ok () { s with res0 := BitVec.ofNat 32 n }

theorem execSerSize_eq (s : State) :
    execSerSize s = command false (spoilSerSize s.suffixReach)
      (fun s => if s.vHuf then measured writeSize s else .raise (.stateFault 0x41) s) s := rfl

theorem execSerBuild_eq (s : State) :
    execSerBuild s = command false (spoilSerBuild s.suffixReach s.leafReach s.tableBytes s.fixupReach)
      (fun s => if s.vHuf then measured buildTable (clearTable s) else .raise (.stateFault 0x42) s) s := rfl

theorem execSerSize_invalid (ha : s.accepts false = true) (hv : s.vHuf = false) :
    FaultsWith (execSerSize s) (.stateFault 0x41) :=
  command_faultsWith (t := s) ha (by simp only [hv, Bool.false_eq_true, if_false])

theorem execSerSize_completes (ha : s.accepts false = true) (hv : s.vHuf = true)
    (h : measured writeSize s = .ok () t) : execSerSize s = .next t :=
  (execSerSize_eq s).trans (command_completes ha ((if_pos hv).trans h))

theorem execSerSize_faults (ha : s.accepts false = true) (hv : s.vHuf = true)
    (h : measured writeSize s = .raise c t) : FaultsWith (execSerSize s) c :=
  execSerSize_eq s ▸ command_faultsWith ha ((if_pos hv).trans h)

theorem execSerBuild_completes (ha : s.accepts false = true) (hv : s.vHuf = true)
    (h : measured buildTable (clearTable s) = .ok () t) : execSerBuild s = .next t :=
  (execSerBuild_eq s).trans (command_completes ha ((if_pos hv).trans h))

theorem execSerBuild_faults (ha : s.accepts false = true) (hv : s.vHuf = true)
    (h : measured buildTable (clearTable s) = .raise c t) : FaultsWith (execSerBuild s) c :=
  execSerBuild_eq s ▸ command_faultsWith ha ((if_pos hv).trans h)

/-- Settles O45: the equations of the sizes, then what the common part of both commands raises. -/
theorem serSizeReturnsTableSize : Obligations.SerSizeReturnsTableSize := by
  refine ⟨rfl, fun s id => ⟨leafSize_leafB, leafSize_leafS, leafSize_leafX⟩, fun s id c a b => ?_,
    fun s => execSerSize_invalid, fun s tr ha hv hn ht => ⟨fun n hb hsize => ?_, fun c hb hsize => ?_, ?_⟩⟩
  · refine ⟨rfl, rfl, rfl, fun e he => treeSize_node_left_error he, fun sa hsa =>
      ⟨fun e he => treeSize_node_right_error hsa he, fun sb hsb => ⟨fun h => ?_, fun hlo hhi => ?_,
        treeSize_node_limit hsa hsb⟩⟩⟩
    · rw [treeSize_node hsa hsb (by omega), skipField, if_pos h, List.length_singleton]
    · rw [treeSize_node hsa hsb hhi, skipField, if_neg (by omega)]
      rfl
  · exact execSerSize_completes ha hv (measured_ok hn hb ht hsize)
  · have hsize' : tableSize (writeSfx (clearTable s)) tr = .error c :=
      (tableSize_congr (writeSfx_clearTable s) tr).trans hsize
    exact ⟨execSerSize_faults ha hv (measured_limit hn hb ht hsize),
      execSerBuild_faults ha hv (measured_limit (s := clearTable s) hn hb ht hsize')⟩
  · intro id hid h0 hfirst
    exact ⟨execSerSize_faults ha hv (measured_operand hn hid h0 hfirst),
      execSerBuild_faults ha hv (measured_operand (s := clearTable s) hn hid h0 hfirst)⟩

/-! ### EST_SIZE -/

/-- What EST_SIZE writes at its end (R193). -/
def writeEstimate (tr : Option HTree) (n : Nat) (s : State) : State :=
  { s with res0 := lowWord (treeBits tr), res1 := highWord (treeBits tr), res2 := BitVec.ofNat 32 n, vHuf := true }

theorem estimate_eq_measured (s : State) :
    estimate s = measured (fun tr n s => .ok () (writeEstimate tr n s)) s := rfl

theorem execEstSize_completes (ha : s.accepts false = true) (hn : s.nSym.toNat ≤ 65536)
    (htok : tokensInAlphabet s = true) (hb : visitedHaveBytes (writeTree (clearTree s)) = true)
    (ht : (writeTree (clearTree s)).tree = some tr)
    (hsize : tableSize (writeSfx (writeTree (clearTree s))) tr = .ok n) :
    execEstSize s = .next (writeEstimate tr n (writeSfx (writeTree (clearTree s)))) := by
  have hn' : (writeTree (clearTree s)).nSym.toNat ≤ 65536 := hn
  rw [execEstSize_eq]
  refine command_completes ha ?_
  rw [buildTree_builds hn htok, Res.bind_ok, estimate_eq_measured, measured_ok hn' hb ht hsize]

/-- Settles O48: nothing is raised, so each part of R193 does its work on what the one before it left. -/
theorem estSizeReturnsBitsAndBytes : Obligations.EstSizeReturnsBitsAndBytes :=
  ⟨rfl, fun _ _ _ ha hn htok hb ht hsize => execEstSize_completes ha hn htok hb ht hsize⟩

theorem execHufBits_completed (h : execHufBits s = .next t) (he : t.err = 0) :
    ∃ tr, s.tree = some tr ∧ t = { s with res0 := lowWord (treeBits tr), res1 := highWord (treeBits tr) } := by
  have hb := command_completed h he
  split at hb
  · unfold withTree at hb
    split at hb
    · next tr htree => cases hb; exact ⟨tr, htree, rfl⟩
    · cases hb
  · cases hb

theorem execSerSize_completed (h : execSerSize s = .next t) (he : t.err = 0) :
    visitedHaveBytes s = true ∧ ∃ tr n, s.tree = some tr ∧ tableSize (writeSfx s) tr = .ok n ∧
      t = { writeSfx s with res0 := BitVec.ofNat 32 n } := by
  have hb := command_completed (execSerSize_eq s ▸ h) he
  split at hb
  · obtain ⟨hbytes, tr, n, htree, hsize, hk⟩ := measured_completed hb
    cases hk
    exact ⟨hbytes, tr, n, htree, hsize, rfl⟩
  · cases hb

/-- Settles O49: the three commands complete only past the checks that EST_SIZE makes, and what HUF_BITS and SER_SIZE
read is what HUF_BUILD's body wrote. -/
theorem estSizeIsBuildBitsAndSize : Obligations.EstSizeIsBuildBitsAndSize := by
  intro s a b c ha ⟨hbuild, hea⟩ ⟨hbits, heb⟩ ⟨hsize, hec⟩
  obtain ⟨hn, htok, rfl⟩ := execHufBuild_completed hbuild hea
  obtain ⟨tr, htree, rfl⟩ := execHufBits_completed hbits heb
  obtain ⟨hbytes, tr', n, htree', hsz, rfl⟩ := execSerSize_completed hsize hec
  obtain rfl : tr = tr' := Option.some.inj (htree.symm.trans htree')
  have hsz' : tableSize (writeSfx (writeTree (clearTree s))) tr = .ok n := by
    rw [← hsz]
    refine tableSize_congr ?_ tr
    rfl
  have herr : s.err = 0 := by
    simpa [State.accepts] using (Bool.and_eq_true_iff.mp ha).2
  have hest := execEstSize_completes ha hn htok hbytes htree hsz'
  exact ⟨_, ⟨hest, herr⟩, rfl, rfl, rfl, rfl, rfl, rfl, rfl, rfl, rfl⟩

end Sys2Proof.Machine
end

section
/-! SUPPORT. The text of a table (30_encoding R93 to R96) and pass 1 of its builder (43_serializer R187 to R192): a
node's children in serialized order, when a tree can be emitted (`Emittable`), what its emission appends, and the
obligation about its size. -/

namespace Sys2Proof.Machine

open Sys2Proof.Safety

variable {s t u v : State} {id n : Nat} {a b tr : HTree} {off : Nat → Nat} {code : List Bool} {x : Unit}

/-! ### The text of a leaf -/

/-- The two bytes of a suffix offset, low byte first (30_encoding R96, 20_memory R62). -/
def offsetField (v : Nat) : List Byte := [BitVec.ofNat 8 v, BitVec.ofNat 8 (v / 256)]

/-- A LEAF.X up to its offset field (30_encoding R96). -/
def ownText (s : State) (id : Nat) : List Byte :=
  [0x02, BitVec.ofNat 8 (ownLength s id)] ++ (s.symBytes id).take (ownLength s id)

theorem symBytes_length (s : State) (id : Nat) : (s.symBytes id).length = s.symLen id := by simp [State.symBytes]

theorem ownText_length (s : State) (id : Nat) : (ownText s id).length = 2 + ownLength s id := by
  have hle : ownLength s id ≤ s.symLen id := Nat.sub_le ..
  simp only [ownText, List.length_append, List.length_cons, List.length_nil, List.length_take, symBytes_length]
  omega

theorem leafText_shares (h : sharesSuffix s id = true) :
    leafText s off id = ownText s id ++ offsetField (off (s.sfxOf id).toNat) := if_pos h

/-- Without a shared suffix the entry has no offset in it. -/
theorem leafText_plain (off off' : Nat → Nat) (h : sharesSuffix s id = false) :
    leafText s off id = leafText s off' id := by
  simp only [leafText, h, Bool.false_eq_true, if_false]

theorem leafText_length_off (off off' : Nat → Nat) : (leafText s off id).length = (leafText s off' id).length := by
  cases h : sharesSuffix s id with
  | true => rw [leafText_shares h, leafText_shares h, List.length_append, List.length_append]; rfl
  | false => rw [leafText_plain off off' h]

theorem leafText_length_pos : 0 < (leafText s off id).length := by
  unfold leafText
  split_ifs <;> simp

/-- The shared suffix of a symbol, if it has one, is no longer than the symbol. -/
def SuffixFits (s : State) (id : Nat) : Prop :=
  s.sfxOf id ≠ noneWord → s.symLen (s.sfxOf id).toNat ≤ s.symLen id

/-- The estimate of a leaf is the length of its entry (R184, R189). -/
theorem leafText_length (h : SuffixFits s id) : (leafText s off id).length = leafSize s id := by
  by_cases hone : s.symLen id = 1
  · simp [leafText, sharesSuffix, hone, leafSize_leafB hone]
  · by_cases hnone : s.sfxOf id = noneWord
    · simp [leafText, sharesSuffix, hone, hnone, leafSize_leafS hone hnone, symBytes_length]
      omega
    · have hfits := h hnone
      rw [leafText_shares (decide_eq_true ⟨hone, hnone⟩), leafSize_leafX hone hnone, List.length_append,
        ownText_length]
      simp only [offsetField, ownLength, List.length_cons, List.length_nil]
      omega

section TablePart

variable (h : tablePart t = tablePart s)
include h

theorem symByte_congr (id : Nat) : t.symByte id = s.symByte id := by
  have hdata : t.stData = s.stData := congrArg (fun p => p.2.2.1) h
  funext k
  rw [State.symByte, State.symByte, hdata]

theorem symBytes_congr (id : Nat) : t.symBytes id = s.symBytes id := by
  rw [State.symBytes, State.symBytes, symLen_congr h, symByte_congr h]

theorem sharesSuffix_congr (id : Nat) : sharesSuffix t id = sharesSuffix s id := by
  simp only [sharesSuffix, symLen_congr h, sfxOf_congr h]

theorem ownLength_congr (id : Nat) : ownLength t id = ownLength s id := by
  simp only [ownLength, symLen_congr h, sfxOf_congr h]

theorem leafText_congr (off : Nat → Nat) (id : Nat) : leafText t off id = leafText s off id := by
  simp only [leafText, sharesSuffix_congr h, ownLength_congr h, symBytes_congr h, symByte_congr h, symLen_congr h,
    sfxOf_congr h]

end TablePart

/-! ### The text of a tree -/

/-- The children of a node in serialized order: the smaller one left, the first one on a tie (R187). -/
def children (s : State) (a b : HTree) : HTree × HTree := if textLength s b < textLength s a then (b, a) else (a, b)

theorem children_cases (s : State) (a b : HTree) : children s a b = (a, b) ∨ children s a b = (b, a) := by
  unfold children
  split
  · exact .inr rfl
  · exact .inl rfl

/-- What holds of both children holds of them in either order. -/
theorem children_both {P : HTree → Prop} : P (children s a b).1 ∧ P (children s a b).2 ↔ P a ∧ P b := by
  rcases children_cases s a b with h | h <;> rw [h]
  exact and_comm

theorem leafSyms_children (s : State) (a b : HTree) :
    (leafSyms (children s a b).1 ++ leafSyms (children s a b).2).Perm (leafSyms (.node a b)) := by
  rcases children_cases s a b with h | h <;> rw [h]
  · exact .refl _
  · exact List.perm_append_comm

theorem textLength_children_fst (s : State) (a b : HTree) :
    textLength s (children s a b).1 = min (textLength s a) (textLength s b) := by
  unfold children
  split <;> dsimp only <;> omega

theorem textLength_children_add (s : State) (a b : HTree) :
    textLength s (children s a b).1 + textLength s (children s a b).2 = textLength s a + textLength s b := by
  rcases children_cases s a b with h | h <;> rw [h]
  exact Nat.add_comm ..

/-- The offsets do not change the length of the text. -/
theorem treeText_length (off : Nat → Nat) (tr : HTree) : (treeText s off tr).length = textLength s tr := by
  unfold textLength
  induction tr with
  | leaf id _ => exact leafText_length_off ..
  | node a b iha ihb =>
    simp only [treeText, nodeText, iha, ihb]
    split <;> simp only [List.length_append, iha, ihb]

theorem treeText_node (off : Nat → Nat) (a b : HTree) :
    treeText s off (.node a b) =
      skipField (textLength s (children s a b).1 + 1) ++ treeText s off (children s a b).1 ++
        treeText s off (children s a b).2 := by
  simp only [treeText, nodeText, treeText_length, children]
  split <;> rfl

theorem textLength_children (s : State) (a b : HTree) :
    textLength s (.node a b) =
      (skipField (textLength s (children s a b).1 + 1)).length + textLength s (children s a b).1 +
        textLength s (children s a b).2 := by
  rw [textLength, treeText_node, List.length_append, List.length_append, treeText_length, treeText_length]

theorem textLength_node (s : State) (a b : HTree) :
    textLength s (.node a b) =
      (skipField (min (textLength s a) (textLength s b) + 1)).length + textLength s a + textLength s b := by
  rw [textLength_children, Nat.add_assoc, textLength_children_add, textLength_children_fst, Nat.add_assoc]

/-- A tree that pass 1 can emit: every suffix fits in its symbol, every skip value in 16 bits (R185, R187, R189). -/
inductive Emittable (u : State) : HTree → Prop
  | leaf {id : Nat} {c : Word} (h : SuffixFits u id) : Emittable u (.leaf id c)
  | node {a b : HTree} (hl : Emittable u (children u a b).1) (hr : Emittable u (children u a b).2)
      (hskip : textLength u (children u a b).1 + 1 ≤ 65535) : Emittable u (.node a b)

theorem Emittable.of_subtrees (ha : Emittable u a) (hb : Emittable u b)
    (hskip : min (textLength u a) (textLength u b) + 1 ≤ 65535) : Emittable u (.node a b) := by
  obtain ⟨hl, hr⟩ := children_both.mpr ⟨ha, hb⟩
  exact .node hl hr (textLength_children_fst u a b ▸ hskip)

/-- Where there is an estimate, the tree can be emitted, and the estimate is the length of its text (R192). -/
theorem emittable_of_treeSize (h : treeSize u tr = .ok n) (hfit : ∀ id ∈ leafSyms tr, SuffixFits u id) :
    Emittable u tr ∧ textLength u tr = n := by
  induction tr generalizing n with
  | leaf id c =>
    have hid := hfit id (List.mem_singleton_self id)
    exact ⟨.leaf hid, (leafText_length hid).trans (Except.ok.inj h)⟩
  | node a b iha ihb =>
    obtain ⟨sa, sb, ha, hb, hskip, rfl⟩ := treeSize_node_ok h
    obtain ⟨hea, rfl⟩ := iha ha fun id hid => hfit id (List.mem_append_left _ hid)
    obtain ⟨heb, rfl⟩ := ihb hb fun id hid => hfit id (List.mem_append_right _ hid)
    exact ⟨.of_subtrees hea heb hskip, textLength_node u a b⟩

theorem Emittable.treeSize_eq (h : Emittable u tr) : treeSize u tr = .ok (textLength u tr) := by
  induction h with
  | leaf hfit => rw [treeSize, textLength, treeText, leafText_length hfit]
  | @node a b _ _ hskip ihl ihr =>
    obtain ⟨ha, hb⟩ := children_both (P := fun tr => treeSize u tr = .ok (textLength u tr)).mp ⟨ihl, ihr⟩
    rw [treeSize_node ha hb (textLength_children_fst u a b ▸ hskip), textLength_node]

/-! ### Pass 1 -/

theorem vliBytes_eq_skipField (h : n ≤ 65535) : vliBytes n = .ok (skipField n) := by
  rw [vliBytes, if_neg (Nat.not_lt.mpr h), skipField]

theorem emitEntry_plain (h : sharesSuffix s id = false) : emitEntry id s = appendAll (leafText s off id) s := by
  have h : ¬ (s.symLen id ≠ 1 ∧ s.sfxOf id ≠ noneWord) := of_decide_eq_false h
  unfold emitEntry
  split
  · next hone => simp [leafText, sharesSuffix, hone]
  · next hone =>
    have hnone : s.sfxOf id = noneWord := by simpa [hone] using h
    simp [leafText, sharesSuffix, hone, hnone]

theorem emitEntry_shares (h : sharesSuffix s id = true) :
    emitEntry id s = (appendAll (ownText s id) s).bind fun _ t =>
      appendAll (offsetField 0) (addFixup (s.sfxOf id).toNat t) := by
  obtain ⟨hone, hnone⟩ : s.symLen id ≠ 1 ∧ s.sfxOf id ≠ noneWord := of_decide_eq_true h
  rw [emitEntry, if_neg hone, if_neg hnone]
  rfl

/-- A node of the tree under emission: its skip field, its left child, its right child (R187 to R189). -/
theorem emitTree_node (hs : tablePart s = tablePart u) (hl : Emittable u (children u a b).1)
    (hr : Emittable u (children u a b).2) (hskip : textLength u (children u a b).1 + 1 ≤ 65535) :
    emitTree (.node a b) code s =
      (appendAll (skipField (textLength u (children u a b).1 + 1)) s).bind fun _ v =>
        (emitTree (children u a b).1 (code ++ [false]) v).bind fun _ w =>
          emitTree (children u a b).2 (code ++ [true]) w := by
  obtain ⟨ha, hb⟩ := children_both.mp ⟨hl, hr⟩
  rw [textLength_children_fst] at hskip ⊢
  simp only [emitTree, treeSize_congr hs, ha.treeSize_eq, hb.treeSize_eq, vliBytes_eq_skipField hskip, Res.ofExcept,
    Res.bind_ok, children]
  split <;> rfl

theorem appendAll_tablePart {bs : List Byte} (h : appendAll bs s = .ok x t) : tablePart t = tablePart s :=
  (congrArg tablePart (appendAll_frame bs h) :)

theorem emitTree_tablePart (h : emitTree tr code s = .ok x t) : tablePart t = tablePart s :=
  (congrArg tablePart (emitTree_frame tr h) :)

/-- The three pieces of a node's emission. -/
theorem emitTree_node_ok (hs : tablePart s = tablePart u) (hl : Emittable u (children u a b).1)
    (hr : Emittable u (children u a b).2) (hskip : textLength u (children u a b).1 + 1 ≤ 65535)
    (h : emitTree (.node a b) code s = .ok x t) :
    ∃ v w, appendAll (skipField (textLength u (children u a b).1 + 1)) s = .ok () v ∧
      emitTree (children u a b).1 (code ++ [false]) v = .ok () w ∧
      emitTree (children u a b).2 (code ++ [true]) w = .ok () t ∧
      tablePart v = tablePart u ∧ tablePart w = tablePart u := by
  rw [emitTree_node hs hl hr hskip] at h
  obtain ⟨_, v, hv, h⟩ := Res.bind_eq_ok.mp h
  obtain ⟨_, w, hw, h⟩ := Res.bind_eq_ok.mp h
  have htv := (appendAll_tablePart hv).trans hs
  exact ⟨v, w, hv, hw, h, htv, (emitTree_tablePart hw).trans htv⟩

/-- From `s` to `t` the bytes `bs` were appended (40_bitio R130). -/
structure AppendsText (bs : List Byte) (s t : State) : Prop where
  stores : StoresBytes s.wptr.toNat bs s t
  wptr : t.wptr.toNat = s.wptr.toNat + bs.length
  pkCap : t.pkCap = s.pkCap

theorem AppendsText.append {bs cs : List Byte} (h : AppendsText bs s t) (h' : AppendsText cs t v) :
    AppendsText (bs ++ cs) s v where
  stores := storesBytes_append h.stores (h.wptr ▸ h'.stores) h.pkCap
  wptr := by rw [h'.wptr, h.wptr, List.length_append, Nat.add_assoc]
  pkCap := h'.pkCap.trans h.pkCap

theorem appendAll_appendsText {bs : List Byte} (h : appendAll bs s = .ok x t) : AppendsText bs s t where
  stores := appendAll_storesBytes bs h
  wptr := appendAll_wptr bs h
  pkCap := (congrArg State.pkCap (appendAll_frame bs h) :)

/-- An entry is appended with a placeholder of 0 for its offset, if it has one (R189). -/
theorem emitEntry_appendsText (h : emitEntry id s = .ok x t) : AppendsText (leafText s (fun _ => 0) id) s t := by
  cases hs : sharesSuffix s id with
  | false => exact appendAll_appendsText (emitEntry_plain hs ▸ h)
  | true =>
    rw [emitEntry_shares hs] at h
    obtain ⟨_, v, hv, h⟩ := Res.bind_eq_ok.mp h
    rw [leafText_shares hs]
    have hfield := appendAll_appendsText h
    exact (appendAll_appendsText hv).append { hfield with }

/-- Pass 1 appends the text of the tree, with placeholders for the offsets (R189). -/
theorem Emittable.appendsText (h : Emittable u tr) (hs : tablePart s = tablePart u)
    (he : emitTree tr code s = .ok x t) : AppendsText (treeText u (fun _ => 0) tr) s t := by
  induction h generalizing s t code x with
  | leaf hfit =>
    rw [treeText, ← leafText_congr hs]
    exact { emitEntry_appendsText he with }
  | node hl hr hskip ihl ihr =>
    obtain ⟨v, w, hv, hw, ht, hsv, hsw⟩ := emitTree_node_ok hs hl hr hskip he
    rw [treeText_node]
    exact ((appendAll_appendsText hv).append (ihl hsv hw)).append (ihr hsw ht)

theorem emitEntry_fits (h : s.wptr.toNat + (leafText s (fun _ => 0) id).length ≤ 2 ^ 32 - 1) :
    ∃ t, emitEntry id s = .ok () t := by
  cases hs : sharesSuffix s id with
  | false => rw [emitEntry_plain (off := fun _ => 0) hs]; exact appendAll_fits _ h
  | true =>
    rw [leafText_shares hs, List.length_append] at h
    obtain ⟨v, hv⟩ := appendAll_fits (s := s) (ownText s id) (by omega)
    rw [emitEntry_shares hs, hv, Res.bind_ok]
    refine appendAll_fits _ ?_
    have hptr := appendAll_wptr _ hv
    rw [show (addFixup (s.sfxOf id).toNat v).wptr = v.wptr from rfl]
    omega

/-- Pass 1 goes through while its bytes keep WPTR at or below its ceiling (R130, R192). -/
theorem Emittable.fits (h : Emittable u tr) (hs : tablePart s = tablePart u)
    (hroom : s.wptr.toNat + textLength u tr ≤ 2 ^ 32 - 1) : ∃ t, emitTree tr code s = .ok () t := by
  induction h generalizing s code with
  | leaf hfit =>
    rw [textLength, treeText, ← leafText_congr hs] at hroom
    exact emitEntry_fits hroom
  | @node a b hl hr hskip ihl ihr =>
    rw [textLength_children] at hroom
    obtain ⟨v, hv⟩ := appendAll_fits (s := s) (skipField (textLength u (children u a b).1 + 1)) (by omega)
    have hsv := (appendAll_tablePart hv).trans hs
    have hptr := appendAll_wptr _ hv
    obtain ⟨w, hw⟩ := ihl hsv (by omega)
    have hptr' := (hl.appendsText hsv hw).wptr
    rw [treeText_length] at hptr'
    obtain ⟨t, ht⟩ := ihr ((emitTree_tablePart hw).trans hsv) (by omega)
    exact ⟨t, by rw [emitTree_node hs hl hr hskip, hv, Res.bind_ok, hw, Res.bind_ok, ht]⟩

/-- Settles O46: the text that pass 1 appends is as long as the estimate says, whatever its offsets. -/
theorem emitAdvancesBySize : Obligations.EmitAdvancesBySize := by
  intro s tr code n hsize hfit
  obtain ⟨hemit, rfl⟩ := emittable_of_treeSize hsize hfit
  exact ⟨fun t ht => treeText_length (s := s) _ tr ▸ (hemit.appendsText rfl ht).wptr,
    fun hroom => hemit.fits rfl hroom⟩

end Sys2Proof.Machine
end

section
/-! SUPPORT. The finished table (43_serializer R188 to R191): where pass 1 places the leaves and what it records of
them, how pass 2 fills in the offsets, the state that SER_BUILD completes to, and the obligation about it. -/

namespace Sys2Proof.Machine

open Sys2Proof.Safety

variable {s t u v w : State} {id n k p : Nat} {a b tr : HTree} {off : Nat → Nat} {code : List Bool} {x : Unit}
  {q : Placement} {ps : List Placement} {f : Fixup} {fs : List Fixup} {bs cs : List Byte}

/-! ### Where the leaves stand -/

theorem placements_node (s : State) (p : Nat) (code : List Bool) (a b : HTree) :
    placements s p code (.node a b) =
      placements s (p + (skipField (textLength s (children s a b).1 + 1)).length) (code ++ [false])
          (children s a b).1 ++
        placements s (p + (skipField (textLength s (children s a b).1 + 1)).length + textLength s (children s a b).1)
          (code ++ [true]) (children s a b).2 := by
  rw [placements]
  unfold children
  split <;> rfl

theorem Emittable.placements_syms (h : Emittable u tr) (p : Nat) (code : List Bool) :
    ((placements u p code tr).map (·.sym)).Perm (leafSyms tr) := by
  induction h generalizing p code with
  | leaf => exact .refl _
  | @node a b _ _ _ ihl ihr =>
    rw [placements_node, List.map_append]
    exact ((ihl _ _).append (ihr _ _)).trans (leafSyms_children u a b)

/-- Every entry begins within the text (10_state R47). -/
theorem Emittable.placements_offset (h : Emittable u tr) (hq : q ∈ placements u p code tr) :
    q.offset < p + textLength u tr := by
  induction h generalizing p code with
  | leaf =>
    rw [List.mem_singleton.mp hq]
    exact Nat.lt_add_of_pos_right leafText_length_pos
  | @node a b _ _ _ ihl ihr =>
    rw [placements_node, List.mem_append] at hq
    rw [textLength_children]
    rcases hq with hq | hq
    · have := ihl hq
      omega
    · have := ihr hq
      omega

theorem leafSyms_length_pos : 0 < (leafSyms tr).length := by
  induction tr with
  | leaf => exact Nat.one_pos
  | node a b iha _ => rw [leafSyms, List.length_append]; omega

/-- A tree of `n` leaves is less than `n` deep. -/
theorem Emittable.placements_code (h : Emittable u tr) (hq : q ∈ placements u p code tr) :
    q.code.length < code.length + (leafSyms tr).length := by
  induction h generalizing p code with
  | leaf =>
    rw [List.mem_singleton.mp hq]
    exact Nat.lt_succ_self _
  | @node a b _ _ _ ihl ihr =>
    have hlen := (leafSyms_children u a b).length_eq
    have hposl := leafSyms_length_pos (tr := (children u a b).1)
    have hposr := leafSyms_length_pos (tr := (children u a b).2)
    rw [List.length_append] at hlen
    rw [placements_node, List.mem_append] at hq
    rcases hq with hq | hq
    · have := ihl hq
      rw [List.length_append, List.length_singleton] at this
      omega
    · have := ihr hq
      rw [List.length_append, List.length_singleton] at this
      omega

/-! ### What pass 1 records -/

theorem tableFixups_append (s : State) (ps qs : List Placement) :
    tableFixups s (ps ++ qs) = tableFixups s ps ++ tableFixups s qs := by
  simp only [tableFixups, List.filter_append, List.map_append]

theorem tableFixups_plain (h : sharesSuffix s id = false) : tableFixups s [⟨id, p, code⟩] = [] := by
  simp [tableFixups, h]

theorem tableFixups_shares (h : sharesSuffix s id = true) :
    tableFixups s [⟨id, p, code⟩] = [⟨s.tbase.toNat + p + 2 + ownLength s id, (s.sfxOf id).toNat⟩] := by
  simp [tableFixups, h]

theorem tableFixups_congr (h : tablePart t = tablePart s) (ps : List Placement) :
    tableFixups t ps = tableFixups s ps := by
  simp only [tableFixups, tbase_congr h, sharesSuffix_congr h, ownLength_congr h, sfxOf_congr h]

/-- FIX and NFIX after one more fixup (R189). -/
def pushFixup (r : Memory Fixup × Word) (f : Fixup) : Memory Fixup × Word := (r.1.write r.2.toNat f, r.2 + 1)

/-- From `s` to `t` the leaf entries `ps` of the table of `u` were recorded in SOFF, CODE, FIX and NFIX (R189). -/
structure RecordsLeaves (u : State) (ps : List Placement) (s t : State) : Prop where
  soff : t.soff = ps.foldl (fun m q => m.write q.sym (BitVec.ofNat 32 q.offset)) s.soff
  code : t.code = ps.foldl (fun m q => m.write q.sym q.code) s.code
  fixups : (t.fix, t.nfix) = (tableFixups u ps).foldl pushFixup (s.fix, s.nfix)

theorem RecordsLeaves.append {qs : List Placement} (h : RecordsLeaves u ps s t) (h' : RecordsLeaves u qs t v) :
    RecordsLeaves u (ps ++ qs) s v where
  soff := by rw [h'.soff, h.soff, List.foldl_append]
  code := by rw [h'.code, h.code, List.foldl_append]
  fixups := by rw [h'.fixups, h.fixups, tableFixups_append, List.foldl_append]

theorem appendAll_recordsLeaves (h : appendAll bs s = .ok x t) : RecordsLeaves u [] s t where
  soff := (congrArg State.soff (appendAll_frame bs h) :)
  code := (congrArg State.code (appendAll_frame bs h) :)
  fixups := (congrArg (fun s => (s.fix, s.nfix)) (appendAll_frame bs h) :)

/-- The entry of a leaf: a fixup for the field after its own bytes, if it shares a suffix (R189). -/
theorem emitEntry_fixups (h : emitEntry id s = .ok x t) (hp : s.wptr.toNat = s.tbase.toNat + p) :
    (t.fix, t.nfix) = (tableFixups s [⟨id, p, code⟩]).foldl pushFixup (s.fix, s.nfix) := by
  cases hs : sharesSuffix s id with
  | false =>
    rw [emitEntry_plain (off := fun _ => 0) hs] at h
    rw [tableFixups_plain hs]
    exact (congrArg (fun s => (s.fix, s.nfix)) (appendAll_frame _ h) :)
  | true =>
    rw [emitEntry_shares hs] at h
    obtain ⟨_, v, hv, h⟩ := Res.bind_eq_ok.mp h
    have hptr := appendAll_wptr _ hv
    rw [ownText_length, hp, ← Nat.add_assoc] at hptr
    have hold : (v.fix, v.nfix) = (s.fix, s.nfix) := (congrArg (fun s => (s.fix, s.nfix)) (appendAll_frame _ hv) :)
    have hnew : (t.fix, t.nfix) = pushFixup (v.fix, v.nfix) ⟨v.wptr.toNat, (s.sfxOf id).toNat⟩ :=
      (congrArg (fun s => (s.fix, s.nfix)) (appendAll_frame _ h) :)
    rw [hnew, hold, hptr, tableFixups_shares hs]
    rfl

theorem emitLeaf_recordsLeaves (hs : tablePart s = tablePart u) (h : emitLeaf id code s = .ok x t)
    (hp : s.wptr.toNat = u.tbase.toNat + p) : RecordsLeaves u [⟨id, p, code⟩] s t := by
  have hbase := tbase_congr hs
  have hoff : s.wptr.toNat - s.tbase.toNat = p := by rw [hp, hbase, Nat.add_sub_cancel_left]
  have hframe := emitEntry_frame h
  refine ⟨?_, (congrArg State.code hframe :), ?_⟩
  · rw [(congrArg State.soff hframe :), hoff]
    rfl
  · rw [← tableFixups_congr hs]
    exact emitEntry_fixups (s := { s with
      soff := s.soff.write id (BitVec.ofNat 32 (s.wptr.toNat - s.tbase.toNat))
      code := s.code.write id code }) h (hbase ▸ hp)

/-- Pass 1 records the leaves where their entries are placed, with their codes (R188, R189). -/
theorem Emittable.recordsLeaves (h : Emittable u tr) (hs : tablePart s = tablePart u)
    (hp : s.wptr.toNat = u.tbase.toNat + p) (he : emitTree tr code s = .ok x t) :
    RecordsLeaves u (placements u p code tr) s t := by
  induction h generalizing s t code p x with
  | leaf => exact emitLeaf_recordsLeaves hs he hp
  | node hl hr hskip ihl ihr =>
    obtain ⟨v, w, hv, hw, ht, hsv, hsw⟩ := emitTree_node_ok hs hl hr hskip he
    have hpv := appendAll_wptr _ hv
    have hpw := (hl.appendsText hsv hw).wptr
    rw [hp, Nat.add_assoc] at hpv
    rw [treeText_length, hpv, Nat.add_assoc] at hpw
    rw [placements_node]
    exact (appendAll_recordsLeaves hv).append ((ihl hsv hpv hw).append (ihr hsw hpw ht))

/-! ### Reading the records -/

/-- With distinct symbols, no record overwrites another. -/
theorem RecordsLeaves.soffOf (h : RecordsLeaves u ps s t) (hd : (ps.map (·.sym)).Nodup) (hq : q ∈ ps)
    (hlt : q.offset < 2 ^ 32) : (t.soffOf q.sym).toNat = q.offset := by
  rw [State.soffOf, h.soff, Memory.read_foldl_write (key := fun q : Placement => q.sym) _ _ hd hq, BitVec.toNat_ofNat,
    Nat.mod_eq_of_lt hlt]

theorem RecordsLeaves.codeOf (h : RecordsLeaves u ps s t) (hd : (ps.map (·.sym)).Nodup) (hq : q ∈ ps)
    (hle : q.code.length ≤ 65535) : t.codeOf q.sym = q.code := by
  rw [State.codeOf, h.code, Memory.read_foldl_write (key := fun q : Placement => q.sym) _ _ hd hq,
    List.take_of_length_le hle]

/-- As long as NFIX does not wrap, the fixups stand in FIX in their order, after those before them. -/
theorem foldl_pushFixup (r : Memory Fixup × Word) (h : r.2.toNat + fs.length < 2 ^ 32) :
    (fs.foldl pushFixup r).2.toNat = r.2.toNat + fs.length ∧
      (∀ i f, fs[i]? = some f → (fs.foldl pushFixup r).1.find (r.2.toNat + i) = some f) ∧
      ∀ k < r.2.toNat, (fs.foldl pushFixup r).1.find k = r.1.find k := by
  induction fs generalizing r with
  | nil => exact ⟨rfl, nofun, fun _ _ => rfl⟩
  | cons g rest ih =>
    rw [List.length_cons] at h
    have hnext : (pushFixup r g).2.toNat = r.2.toNat + 1 := by
      simp only [pushFixup]
      bv_omega
    obtain ⟨hcount, hnew, hold⟩ := ih (pushFixup r g) (by omega)
    rw [hnext] at hcount hnew hold
    refine ⟨by rw [List.foldl_cons, hcount, List.length_cons]; omega, fun i f hf => ?_, fun k hk => ?_⟩
    · cases i with
      | zero =>
        cases hf
        exact (hold r.2.toNat (by omega)).trans (Memory.find_write_same ..)
      | succ i =>
        rw [show r.2.toNat + (i + 1) = r.2.toNat + 1 + i by omega]
        exact hnew i f hf
    · exact (hold k (by omega)).trans (Memory.find_write_other _ _ (by omega))

theorem RecordsLeaves.fixups_found (h : RecordsLeaves u ps s t) (h0 : s.nfix = 0)
    (hcount : (tableFixups u ps).length < 2 ^ 32) :
    t.nfix.toNat = (tableFixups u ps).length ∧
      ∀ i f, (tableFixups u ps)[i]? = some f → t.fix.find i = some f := by
  have hz : s.nfix.toNat = 0 := by rw [h0]; rfl
  obtain ⟨hn, hfound, _⟩ := foldl_pushFixup (fs := tableFixups u ps) (s.fix, s.nfix) (by rwa [hz, Nat.zero_add])
  rw [← h.fixups, hz] at hn hfound
  exact ⟨by simpa using hn, fun i f hf => by simpa using hfound i f hf⟩

/-! ### Pass 2 -/

/-- The text `bs` at address `a` becomes `cs` when each of the fixups `fs`, in order, fills its field in `bs`, which
holds the placeholder, with its offset (R191). -/
inductive Resolves (off : Nat → Nat) : Nat → List Fixup → List Byte → List Byte → Prop
  | nil {a : Nat} {bs : List Byte} : Resolves off a [] bs bs
  | field {a : Nat} {f : Fixup} {fs : List Fixup} {xs bs cs : List Byte} (hpos : f.pos = a + xs.length)
      (h : Resolves off (f.pos + 2) fs bs cs) :
      Resolves off a (f :: fs) (xs ++ (offsetField 0 ++ bs)) (xs ++ (offsetField (off f.target) ++ cs))

theorem Resolves.prepend {base : Nat} (xs : List Byte) (h : Resolves off (base + xs.length) fs bs cs) :
    Resolves off base fs (xs ++ bs) (xs ++ cs) := by
  cases h with
  | nil => exact .nil
  | @field _ _ _ ys _ _ hpos h =>
    rw [← List.append_assoc, ← List.append_assoc xs]
    exact .field (by rw [hpos, List.length_append, Nat.add_assoc]) h

theorem Resolves.append {base : Nat} {fs' : List Fixup} {bs' cs' : List Byte} (h : Resolves off base fs bs cs)
    (h' : Resolves off (base + bs.length) fs' bs' cs') : Resolves off base (fs ++ fs') (bs ++ bs') (cs ++ cs') := by
  induction h with
  | nil => exact h'.prepend _
  | @field base f fs xs bs cs hpos h ih =>
    have hlen : base + (xs ++ (offsetField 0 ++ bs)).length = f.pos + 2 + bs.length := by
      rw [hpos, List.length_append, List.length_append, Nat.add_assoc, Nat.add_assoc]
      rfl
    rw [List.cons_append, List.append_assoc, List.append_assoc, List.append_assoc, List.append_assoc]
    exact .field hpos (ih (hlen ▸ h'))

theorem leafText_resolves (u : State) (off : Nat → Nat) (id p : Nat) (code : List Bool) :
    Resolves off (u.tbase.toNat + p) (tableFixups u [⟨id, p, code⟩]) (leafText u (fun _ => 0) id)
      (leafText u off id) := by
  cases hs : sharesSuffix u id with
  | false =>
    rw [tableFixups_plain hs, leafText_plain _ off hs]
    exact .nil
  | true =>
    rw [tableFixups_shares hs, leafText_shares hs, leafText_shares hs, ← List.append_nil (offsetField 0),
      ← List.append_nil (offsetField (off _))]
    exact .field (by rw [ownText_length, Nat.add_assoc]) .nil

/-- The fixups that pass 1 records are those that turn its text into the finished one (R189, R191). -/
theorem Emittable.resolves (h : Emittable u tr) (off : Nat → Nat) (p : Nat) (code : List Bool) :
    Resolves off (u.tbase.toNat + p) (tableFixups u (placements u p code tr)) (treeText u (fun _ => 0) tr)
      (treeText u off tr) := by
  induction h generalizing p code with
  | leaf => exact leafText_resolves u off _ p code
  | node _ _ _ ihl ihr =>
    rw [placements_node, tableFixups_append, treeText_node, treeText_node, List.append_assoc, List.append_assoc]
    refine .prepend _ (.append ?_ ?_)
    · rw [Nat.add_assoc]
      exact ihl _ _
    · rw [treeText_length, Nat.add_assoc, Nat.add_assoc, ← Nat.add_assoc p]
      exact ihr _ _

/-- A byte written over one of those stored takes its place; OVF and WLEN already speak of it (20_memory R65). -/
theorem pkWrite_storesBytes {base i : Nat} (z : Byte) (h : StoresBytes base bs s w) (hcap : w.pkCap = s.pkCap)
    (hi : i < bs.length) (hroom : base + bs.length < 2 ^ 32) :
    StoresBytes base (bs.set i z) s (pkWrite (base + i) z w) := by
  obtain ⟨hpk, hovf, hwlen⟩ := h
  have hne : bs ≠ [] := List.ne_nil_of_length_pos (by omega)
  have hne' : bs.set i z ≠ [] := by simpa using hne
  rw [if_neg hne] at hwlen
  refine ⟨fun b => ?_, ?_, ?_⟩
  · by_cases hb : b = base + i
    · subst hb
      rw [State.pkByte, pkWrite_pk, hcap]
      split
      · next hlt => simp [hi, hlt]
      · next hlt => simpa [hlt, State.pkByte] using hpk (base + i)
    · rw [pkWrite_pkByte_other z hb, hpk, List.length_set]
      refine if_ctx_congr Iff.rfl (fun hin => ?_) fun _ => rfl
      have hbi : i ≠ b - base := by omega
      rw [List.getD_eq_getElem?_getD, List.getD_eq_getElem?_getD, List.getElem?_set_ne hbi]
  · rw [pkWrite_ovf, hcap, hovf, List.length_set]
    split
    · simp [hne]
    · next hge =>
      have hover : s.pkCap.toNat < base + bs.length := by omega
      simp [hne, hover]
  · rw [pkWrite_wlen, if_neg hne', hwlen, List.length_set, BitVec.toNat_ofNat]
    have := s.wlen.isLt
    omega

theorem set_offsetField (xs zs : List Byte) (o o' : Nat) :
    ((xs ++ (offsetField o ++ zs)).set xs.length (BitVec.ofNat 8 o')).set (xs.length + 1)
        (BitVec.ofNat 8 (o' / 256)) =
      xs ++ (offsetField o' ++ zs) := by
  rw [List.set_append_right _ _ le_rfl, List.set_append_right _ _ (Nat.le_add_right _ 1), Nat.sub_self,
    Nat.add_sub_cancel_left]
  rfl

/-- Pass 2 on one field (R191). -/
theorem pkWrite_field {base : Nat} {xs zs : List Byte} (o : Nat)
    (h : StoresBytes base (xs ++ (offsetField 0 ++ zs)) s w) (hcap : w.pkCap = s.pkCap)
    (hroom : base + (xs ++ (offsetField 0 ++ zs)).length < 2 ^ 32) :
    StoresBytes base (xs ++ (offsetField o ++ zs)) s
      (pkWrite (base + xs.length + 1) (BitVec.ofNat 8 (o / 256))
        (pkWrite (base + xs.length) (BitVec.ofNat 8 o) w)) := by
  have hlen : (xs ++ (offsetField 0 ++ zs)).length = xs.length + (2 + zs.length) := by
    rw [List.length_append, List.length_append]
    rfl
  have hlo := pkWrite_storesBytes (i := xs.length) (BitVec.ofNat 8 o) h hcap (by omega) hroom
  have hcap' : (pkWrite (base + xs.length) (BitVec.ofNat 8 o) w).pkCap = s.pkCap := by rw [pkWrite_frame, ← hcap]
  have hhi := pkWrite_storesBytes (i := xs.length + 1) (BitVec.ofNat 8 (o / 256)) hlo hcap'
    (by rw [List.length_set]; omega) (by rwa [List.length_set])
  rwa [set_offsetField] at hhi

theorem resolveFixups_succ (hf : s.fix.find k = some f) (hle : (s.soffOf f.target).toNat ≤ 65535) :
    resolveFixups k (n + 1) s = resolveFixups (k + 1) n
      (pkWrite (f.pos + 1) (BitVec.ofNat 8 ((s.soffOf f.target).toNat / 256))
        (pkWrite f.pos (BitVec.ofNat 8 (s.soffOf f.target).toNat) s)) := by
  simp only [resolveFixups, hf, Nat.not_lt.mpr hle, if_false]

/-- Pass 2 writes PK, OVF and WLEN, and nothing else (R191). -/
theorem resolveFixups_frame (h : resolveFixups k n s = .ok x t) :
    t = { s with pk := t.pk, ovf := t.ovf, wlen := t.wlen } := by
  induction n generalizing k s with
  | zero => cases h; rfl
  | succ n ih =>
    unfold resolveFixups at h
    split at h
    · cases h
    · dsimp only at h
      split at h
      · cases h
      · have hrest := ih h
        rw [pkWrite_frame, pkWrite_frame] at hrest
        exact hrest

/-- Pass 2 over the fixups of a text that has been stored leaves the finished text (R191). -/
theorem Resolves.resolveFixups {base start : Nat} {xs : List Byte} (h : Resolves off start fs bs cs)
    (hstart : start = base + xs.length) (hfix : ∀ i f, fs[i]? = some f → w.fix.find (k + i) = some f)
    (hoff : ∀ f ∈ fs, (w.soffOf f.target).toNat = off f.target ∧ off f.target ≤ 65535)
    (hst : StoresBytes base (xs ++ bs) s w) (hcap : w.pkCap = s.pkCap) (hroom : base + (xs ++ bs).length < 2 ^ 32) :
    ∃ t, resolveFixups k fs.length w = .ok () t ∧ StoresBytes base (xs ++ cs) s t := by
  induction h generalizing xs k w with
  | nil => exact ⟨w, rfl, hst⟩
  | @field start f fs ys bs cs hpos h ih =>
    obtain ⟨ho, hle⟩ := hoff f (List.mem_cons_self ..)
    have hf : w.fix.find k = some f := hfix 0 f rfl
    rw [List.length_cons, resolveFixups_succ hf (ho ▸ hle), ho]
    have hpos' : f.pos = base + (xs ++ ys).length := by rw [hpos, hstart, List.length_append, Nat.add_assoc]
    rw [← List.append_assoc] at hst hroom ⊢
    have hfield := pkWrite_field (off f.target) hst hcap hroom
    rw [← hpos'] at hfield
    have hlen : ∀ o, (xs ++ ys ++ (offsetField o ++ bs)).length = (xs ++ ys).length + (2 + bs.length) := fun o => by
      rw [List.length_append, List.length_append (as := offsetField o)]
      rfl
    rw [← List.append_assoc] at hfield ⊢
    refine ih ?_ ?_ ?_ hfield ?_ ?_
    · rw [List.length_append, hpos', Nat.add_assoc]
      rfl
    · intro i g hg
      rw [pkWrite_frame, pkWrite_frame]
      have := hfix (i + 1) g hg
      rwa [← Nat.add_assoc, Nat.add_right_comm] at this
    · intro g hg
      rw [pkWrite_frame, pkWrite_frame]
      exact hoff g (List.mem_cons_of_mem _ hg)
    · rw [pkWrite_frame, pkWrite_frame]
      exact hcap
    · rw [List.append_assoc, hlen]
      rwa [hlen] at hroom

/-! ### A whole table -/

section Table

variable {tb : Option HTree}

theorem emittable_of_tableSize (off : Nat → Nat) (h : tableSize u tb = .ok n)
    (hfit : ∀ id ∈ tableSyms tb, SuffixFits u id) :
    (∀ tr ∈ tb, Emittable u tr) ∧ (tableText u off tb).length = n := by
  cases tb with
  | none => cases h; exact ⟨nofun, rfl⟩
  | some tr =>
    obtain ⟨hemit, hlen⟩ := emittable_of_treeSize h hfit
    refine ⟨fun _ htr => ?_, (treeText_length off tr).trans hlen⟩
    cases htr
    exact hemit

theorem emitTable_frame (h : emitTable tb s = .ok x t) :
    t = { s with pk := t.pk, ovf := t.ovf, wlen := t.wlen, wptr := t.wptr, fix := t.fix, nfix := t.nfix,
                 soff := t.soff, code := t.code } := by
  cases tb with
  | none => cases h; rfl
  | some tr => exact emitTree_frame tr h

variable (h : ∀ tr ∈ tb, Emittable u tr)
include h

theorem tablePlacements_syms : ((tablePlacements u tb).map (·.sym)).Perm (tableSyms tb) := by
  cases tb with
  | none => exact .nil
  | some tr => exact (h tr rfl).placements_syms 0 []

theorem tablePlacements_length : (tablePlacements u tb).length = (tableSyms tb).length := by
  rw [← (tablePlacements_syms h).length_eq, List.length_map]

theorem tablePlacements_offset (off : Nat → Nat) (hq : q ∈ tablePlacements u tb) :
    q.offset < (tableText u off tb).length := by
  cases tb with
  | none => cases hq
  | some tr =>
    have hlt := (h tr rfl).placements_offset hq
    rwa [Nat.zero_add, ← treeText_length off] at hlt

theorem tablePlacements_code (hq : q ∈ tablePlacements u tb) : q.code.length < (tablePlacements u tb).length := by
  rw [tablePlacements_length h]
  cases tb with
  | none => cases hq
  | some tr =>
    have hlt := (h tr rfl).placements_code hq
    rwa [List.length_nil, Nat.zero_add] at hlt

theorem tableText_resolves (off : Nat → Nat) :
    Resolves off u.tbase.toNat (tableFixups u (tablePlacements u tb)) (tableText u (fun _ => 0) tb)
      (tableText u off tb) := by
  cases tb with
  | none => exact .nil
  | some tr => exact (h tr rfl).resolves off 0 []

/-- Pass 1 over a whole table, from TBASE on (R189, R190). -/
theorem emitTable_ok (hs : tablePart s = tablePart u) (hp : s.wptr = u.tbase)
    (hroom : u.tbase.toNat + (tableText u (fun _ => 0) tb).length ≤ 2 ^ 32 - 1) :
    ∃ v, emitTable tb s = .ok () v ∧ AppendsText (tableText u (fun _ => 0) tb) s v ∧
      RecordsLeaves u (tablePlacements u tb) s v := by
  rw [← hp] at hroom
  cases tb with
  | none => exact ⟨s, rfl, ⟨storesBytes_nil _ s, rfl, rfl⟩, ⟨rfl, rfl, rfl⟩⟩
  | some tr =>
    have hemit := h tr rfl
    obtain ⟨v, hv⟩ := hemit.fits (code := []) hs hroom
    exact ⟨v, hv, hemit.appendsText hs hv, hemit.recordsLeaves hs (congrArg BitVec.toNat hp) hv⟩

end Table

/-- What pass 1 has recorded of each leaf: its place fits SOFF, its code fits CODE (10_state R47, R48). -/
theorem RecordsLeaves.placed {tb : Option HTree} (hrec : RecordsLeaves u (tablePlacements u tb) s t)
    (h : ∀ tr ∈ tb, Emittable u tr) (hroom : (tableText u off tb).length < 2 ^ 32)
    (hd : ((tablePlacements u tb).map (·.sym)).Nodup) (hcount : (tablePlacements u tb).length ≤ 65536)
    (hq : q ∈ tablePlacements u tb) : (t.soffOf q.sym).toNat = q.offset ∧ t.codeOf q.sym = q.code := by
  have hoff := tablePlacements_offset h off hq
  have hcode := tablePlacements_code h hq
  exact ⟨hrec.soffOf hd hq (by omega), hrec.codeOf hd hq (by omega)⟩

/-- What SER_BUILD's own part leaves: the finished table at TBASE, its leaves and fixups recorded, the writer just
after it (R190). -/
structure Built (u : State) (tb : Option HTree) (n : Nat) (s t : State) : Prop where
  frame : t = { s with
    tlen := BitVec.ofNat 32 n, res0 := BitVec.ofNat 32 n, vSer := true, wacc := 0, wcnt := 0
    pk := t.pk, ovf := t.ovf, wlen := t.wlen, wptr := t.wptr, fix := t.fix, nfix := t.nfix
    soff := t.soff, code := t.code }
  wptr : t.wptr.toNat = s.tbase.toNat + n
  placed : ∀ q ∈ tablePlacements u tb, (t.soffOf q.sym).toNat = q.offset ∧ t.codeOf q.sym = q.code
  nfix : t.nfix.toNat = (tableFixups u (tablePlacements u tb)).length
  fix : ∀ i f, (tableFixups u (tablePlacements u tb))[i]? = some f → t.fix.find i = some f
  stores : StoresBytes s.tbase.toNat (tableText u (fun id => (t.soffOf id).toNat) tb) s t

/-- SER_BUILD's own part completes when the table fits below the writer's ceiling and every offset that a fixup writes
fits 16 bits (R190, R191). -/
theorem buildTable_completes {tb : Option HTree} (hs : tablePart s = tablePart u) (h : ∀ tr ∈ tb, Emittable u tr)
    (hn : (tableText u (fun _ => 0) tb).length = n) (hroom : u.tbase.toNat + n ≤ 2 ^ 32 - 1)
    (hd : ((tablePlacements u tb).map (·.sym)).Nodup) (hcount : (tablePlacements u tb).length ≤ 65536)
    (hfits : ∀ f ∈ tableFixups u (tablePlacements u tb),
      ∃ q ∈ tablePlacements u tb, q.sym = f.target ∧ q.offset ≤ 65535) :
    ∃ t, buildTable tb n s = .ok () t ∧ Built u tb n s t := by
  have hbase := tbase_congr hs
  obtain ⟨v, hv, htext, hrec⟩ := emitTable_ok (s := { s with wptr := s.tbase, wacc := 0, wcnt := 0, nfix := 0 }) h
    hs hbase (hn ▸ hroom)
  have hframe := emitTable_frame hv
  have hplaced : ∀ q ∈ tablePlacements u tb, (v.soffOf q.sym).toNat = q.offset ∧ v.codeOf q.sym = q.code :=
    fun q hq => hrec.placed h (off := fun _ => 0) (by omega) hd hcount hq
  have hfs : (tableFixups u (tablePlacements u tb)).length ≤ (tablePlacements u tb).length := by
    rw [tableFixups, List.length_map]
    exact List.length_filter_le ..
  obtain ⟨hnfix, hfix⟩ := hrec.fixups_found rfl (by omega)
  have hwptr : v.wptr.toNat = s.tbase.toNat + n := hn ▸ htext.wptr
  have hoff : ∀ f ∈ tableFixups u (tablePlacements u tb),
      (v.soffOf f.target).toNat = (v.soffOf f.target).toNat ∧ (v.soffOf f.target).toNat ≤ 65535 := by
    intro f hf
    obtain ⟨q, hq, hsym, hle⟩ := hfits f hf
    exact ⟨rfl, hsym ▸ (hplaced q hq).1.trans_le hle⟩
  have hresolves := tableText_resolves h fun id => (v.soffOf id).toNat
  obtain ⟨w, hw, hstores⟩ := hresolves.resolveFixups (base := u.tbase.toNat) (xs := []) (k := 0) rfl
    (by simpa using hfix) hoff (hbase ▸ htext.stores) htext.pkCap (by rw [List.nil_append, hn]; omega)
  have hframe' := resolveFixups_frame hw
  refine ⟨{ w with tlen := BitVec.ofNat 32 n, res0 := BitVec.ofNat 32 n, vSer := true }, ?_, ?_⟩
  · have hest : ¬ v.wptr.toNat - v.tbase.toNat ≠ n := by
      rw [hwptr, (congrArg State.tbase hframe :), Nat.add_sub_cancel_left]
      exact not_not.mpr rfl
    rw [buildTable, hv, Res.bind_ok, if_neg hest, hnfix, hw, Res.bind_ok]
  · have hsoff : ∀ id, w.soffOf id = v.soffOf id := fun id => by rw [hframe']; rfl
    have hcode : ∀ id, w.codeOf id = v.codeOf id := fun id => by rw [hframe']; rfl
    refine ⟨by rw [hframe', hframe], ?_, fun q hq => ?_, ?_, fun i f hf => ?_, ?_⟩
    · exact (congrArg (fun s => s.wptr.toNat) hframe').trans hwptr
    · exact (hsoff q.sym).symm ▸ (hcode q.sym).symm ▸ hplaced q hq
    · exact (congrArg (fun s => s.nfix.toNat) hframe').trans hnfix
    · exact (congrArg (fun s => s.fix.find i) hframe').trans (hfix i f hf)
    · have htxt : (fun id => (v.soffOf id).toNat) = fun id => (w.soffOf id).toNat := by simp only [hsoff]
      rw [htxt] at hstores
      exact hbase ▸ hstores

/-! ### SER_BUILD -/

/-- After `sfx_all` every shared suffix is shorter than its symbol (R194). -/
theorem writeSfx_suffixFits (hv : s.visited id = true) : SuffixFits (writeSfx s) id := fun h => by
  obtain ⟨⟨_, _, _, hshorter, _⟩, _⟩ := writeSfx_link hv h
  exact hshorter.le

/-- The target of a fixup is a visited symbol, so it has an entry in the table (R183, R191). -/
theorem tableFixups_target (hps : (ps.map (·.sym)).Perm s.visitedIds) (hf : f ∈ tableFixups (writeSfx s) ps) :
    ∃ q ∈ ps, q.sym = f.target := by
  obtain ⟨q, hq, rfl⟩ := List.mem_map.mp hf
  obtain ⟨hq, hshares⟩ := List.mem_filter.mp hq
  have hvisited : s.visited q.sym = true := mem_visitedIds.mp (hps.mem_iff.mp (List.mem_map_of_mem hq))
  obtain ⟨_, htarget, _⟩ := writeSfx_link hvisited (of_decide_eq_true hshares).2
  exact List.mem_map.mp (hps.mem_iff.mpr (mem_visitedIds.mpr htarget))

theorem map_find_of_getElem? {m : Memory Fixup} (h : ∀ i f, fs[i]? = some f → m.find i = some f) :
    (List.range fs.length).map m.find = fs.map some := by
  refine List.ext_getElem (by simp) fun i hi _ => ?_
  rw [List.length_map, List.length_range] at hi
  simpa using h i fs[i] (List.getElem?_eq_getElem hi)

theorem writeSfx_emittable {tb : Option HTree} (off : Nat → Nat) (hperm : (tableSyms tb).Perm s.visitedIds)
    (hsize : tableSize (writeSfx s) tb = .ok n) :
    (∀ tr ∈ tb, Emittable (writeSfx s) tr) ∧ (tableText (writeSfx s) off tb).length = n :=
  emittable_of_tableSize off hsize fun _ hid => writeSfx_suffixFits (mem_visitedIds.mp (hperm.mem_iff.mp hid))

/-- SER_BUILD completes over a tree of the visited symbols, each with bytes, when the table fits below the writer's
ceiling and the offsets that fixups write fit 16 bits (R190, R191). -/
theorem execSerBuild_builds {tb : Option HTree} (ha : s.accepts false = true) (hv : s.vHuf = true)
    (hsym : s.nSym.toNat ≤ 65536) (hb : visitedHaveBytes s = true) (htree : s.tree = some tb)
    (hperm : (tableSyms tb).Perm s.visitedIds) (hsize : tableSize (writeSfx s) tb = .ok n)
    (hroom : s.tbase.toNat + n ≤ 2 ^ 32 - 1)
    (hoffsets : ∀ (f : Fixup) (q : Placement), f ∈ tableFixups (writeSfx s) (tablePlacements (writeSfx s) tb) →
      q ∈ tablePlacements (writeSfx s) tb → q.sym = f.target → q.offset ≤ 65535) :
    ∃ t, execSerBuild s = .next t ∧ Built (writeSfx s) tb n (writeSfx (clearTable s)) t := by
  obtain ⟨hemit, hlen⟩ := writeSfx_emittable (fun _ => 0) hperm hsize
  have hps := (tablePlacements_syms hemit).trans hperm
  have hcount : (tablePlacements (writeSfx s) tb).length ≤ 65536 := by
    rw [tablePlacements_length hemit, hperm.length_eq]
    exact (visitedIds_length_le s).trans hsym
  obtain ⟨t, hbuild, hbuilt⟩ := buildTable_completes (writeSfx_clearTable s) hemit hlen hroom
    (hps.nodup_iff.mpr (visitedIds_nodup s)) hcount fun f hf => by
      obtain ⟨q, hq, htarget⟩ := tableFixups_target hps hf
      exact ⟨q, hq, htarget, hoffsets f q hf hq htarget⟩
  have hsize' : tableSize (writeSfx (clearTable s)) tb = .ok n :=
    (tableSize_congr (writeSfx_clearTable s) tb).trans hsize
  have hbody := (measured_ok (s := clearTable s) hsym hb htree hsize').trans hbuild
  exact ⟨t, execSerBuild_completes ha hv hbody, hbuilt⟩

/-- Settles O47: pass 1 stores the text with placeholders and records the leaves, pass 2 fills in the offsets. -/
theorem serBuildCompletes : Obligations.SerBuildCompletes := by
  refine ⟨rfl, fun s tb n ha hv hsym hb htree hperm hsize hroom => ?_⟩
  obtain ⟨hemit, _⟩ := writeSfx_emittable (fun _ => 0) hperm hsize
  have hps := (tablePlacements_syms hemit).trans hperm
  refine ⟨hps, fun hoffsets => ?_⟩
  obtain ⟨t, hexec, hframe, hwptr, hplaced, hnfix, hfix, hstores⟩ :=
    execSerBuild_builds ha hv hsym hb htree hperm hsize hroom hoffsets
  obtain ⟨_, hlen⟩ := writeSfx_emittable (fun id => (t.soffOf id).toNat) hperm hsize
  have hempty : tableText (writeSfx s) (fun id => (t.soffOf id).toNat) tb = [] ↔ n = 0 := by
    rw [← List.length_eq_zero_iff, hlen]
  have hnotEmpty : tableText (writeSfx s) (fun id => (t.soffOf id).toNat) tb ≠ [] ↔ 0 < n := by
    rw [ne_eq, hempty, Nat.pos_iff_ne_zero]
  obtain ⟨_, hovf, hwlen⟩ := id hstores
  simp only [hnotEmpty, hempty, hlen] at hovf hwlen
  refine ⟨t, hexec, (congrArg State.vSer hframe :), (congrArg State.vHuf hframe).trans hv,
    (congrArg State.tlen hframe :), (congrArg State.res0 hframe :), hwptr, (congrArg State.wcnt hframe :),
    (congrArg State.wacc hframe :), hovf, hwlen, fun id hid => ⟨?_, ?_⟩, hplaced, hnfix, map_find_of_getElem? hfix,
    hlen, hstores⟩
  · exact (congrArg (fun s => s.sfxOf id) hframe).trans (writeSfx_sfxOf_visited (s := clearTable s) hid)
  · obtain ⟨q, hq, rfl⟩ := List.mem_map.mp (hps.mem_iff.mpr (mem_visitedIds.mpr hid))
    obtain ⟨hoff, _⟩ := hplaced q hq
    exact hlen ▸ hoff.trans_lt (tablePlacements_offset hemit _ hq)

end Sys2Proof.Machine
end

section
/-! SUPPORT. The nodes of the decode walk (44_decode R211 to R216): what a branch does in either phase, when a run of
bytes is emitted and where it stops, and what the three leaf entries emit. -/

namespace Sys2Proof.Machine

open Sys2Proof.Safety

variable {s t u w : State} {x : Unit} {a n j : Nat} {bs cs : List Byte} {c c' : Cause} {i : Instr}

/-! ### A node by itself -/

theorem nodeOutcome_goes {f : State → Res Unit} (h : f s = .ok () t) : nodeOutcome f s = .next t := by
  rw [nodeOutcome, h]

theorem nodeOutcome_faultsWith {f : State → Res Unit} (h : f s = .raise c t) : FaultsWith (nodeOutcome f s) c := by
  rw [nodeOutcome, h]
  exact ⟨_, rfl, rfl, rfl, rfl⟩

/-- Causes that ERR and EINFO do not tell apart: EINFO has 32 bits (60_exceptions R260). -/
theorem faultsWith_recorded {o : Host.Outcome State Fault Refusal} (h : FaultsWith o c) (hcode : c.code = c'.code)
    (hinfo : BitVec.ofNat 32 c.info = BitVec.ofNat 32 c'.info) : FaultsWith o c' := by
  obtain ⟨t, ho, he, hi, hb⟩ := h
  exact ⟨t, ho, he.trans hcode, hi.trans hinfo, hb⟩

/-! ### Branches -/

theorem branch_descent {l r : Nat} (h : s.walk.phase = .descent) :
    branch l r s = .ok () { s with
      rpos := (bitRead s).2.rpos
      rbit := (bitRead s).2.rbit
      walk := { s.walk with pos := if (bitRead s).1 then r else l } } := by
  rw [branch, if_neg (by rw [h]; nofun), ← h]
  dsimp only
  rw [bitRead_frame]

theorem branch_malformed {l r : Nat} (h : s.walk.phase = .emission) :
    branch l r s = .raise (.malformedStream s.walk.pos) s := by rw [branch, if_pos h]

/-- Settles O52: both forms are the branch, to their own two targets. -/
theorem branchNodesFollowStreamBit : Obligations.BranchNodesFollowStreamBit := by
  refine fun s h lo hi => ⟨fun hd => ?_, fun he =>
    ⟨nodeOutcome_faultsWith (branch_malformed he), nodeOutcome_faultsWith (branch_malformed he)⟩⟩
  have hskip : s.walk.pos + 3 + (lo.toNat + 256 * hi.toNat) - 1 = s.walk.pos + 2 + leWord lo hi := by
    unfold leWord
    omega
  rw [hskip]
  exact ⟨nodeOutcome_goes (branch_descent hd), nodeOutcome_goes (branch_descent hd)⟩

/-! ### Emission of bytes -/

theorem emitsBytes_nil (s : State) : EmitsBytes [] s s := by
  refine ⟨rfl, rfl, rfl, rfl, ?_⟩
  split
  · exact ⟨rfl, rfl, rfl⟩
  · exact ⟨fun b => by rw [List.length_nil, if_neg (by omega)], by simp, rfl⟩

theorem emitsBytes_append (h : EmitsBytes bs s t) (h' : EmitsBytes cs t u) (hcap : t.rawCap = s.rawCap) :
    EmitsBytes (bs ++ cs) s u := by
  obtain ⟨hdptr, hdrem, hcount, hmode, hraw⟩ := h
  obtain ⟨hdptr', hdrem', hcount', hmode', hraw'⟩ := h'
  refine ⟨by rw [hdptr', hdptr, List.length_append, Nat.add_assoc], by rw [List.length_append]; omega,
    by rw [hcount', hcount, List.length_append, Nat.add_assoc], hmode'.trans hmode, ?_⟩
  rw [hmode] at hraw'
  cases hv : s.walk.verify with
  | true =>
    rw [hv, if_pos rfl] at hraw hraw'
    obtain ⟨hr, hl, ho⟩ := hraw
    obtain ⟨hr', hl', ho'⟩ := hraw'
    exact ⟨hr'.trans hr, hl'.trans hl, ho'.trans ho⟩
  | false =>
    rw [hv, if_neg Bool.false_ne_true] at hraw hraw'
    obtain ⟨hr, ho, hl⟩ := hraw
    obtain ⟨hr', ho', hl'⟩ := hraw'
    have hbs : bs = [] ↔ bs.length = 0 := List.length_eq_zero_iff.symm
    have hcs : cs = [] ↔ cs.length = 0 := List.length_eq_zero_iff.symm
    rw [if_neg Bool.false_ne_true]
    refine ⟨fun b => ?_, ?_, ?_⟩
    · rw [hr', hr, hcap, hdptr, List.length_append]
      by_cases hlt : b < s.dptr.toNat + bs.length
      · rw [if_neg fun h => absurd h.1 (by omega)]
        refine if_ctx_congr (by omega) (fun h => ?_) fun _ => rfl
        exact (List.getD_append _ _ _ _ (by omega)).symm
      · rw [if_neg (c := s.dptr.toNat ≤ b ∧ b < s.dptr.toNat + bs.length ∧ _) fun h => hlt h.2.1]
        refine if_ctx_congr (by omega) (fun h => ?_) fun _ => rfl
        rw [List.getD_append_right _ _ _ _ (by omega), Nat.sub_add_eq]
    · rw [ho', ho, hcap, hdptr, Bool.or_assoc, ← Bool.decide_or, List.length_append]
      congr 2
      simp only [ne_eq, List.append_eq_nil_iff, hbs, hcs, eq_iff_iff]
      omega
    · rw [hl', hl, hdptr, List.length_append]
      simp only [List.append_eq_nil_iff, hbs, hcs]
      split_ifs <;> omega

theorem mayEmit_iff : mayEmit bs s = true ↔
    bs.length ≤ s.drem.toNat ∧ s.dptr.toNat + bs.length < 2 ^ 32 ∧
      (s.walk.verify = true → ∀ k < bs.length,
        s.dptr.toNat + k < s.rawCap.toNat ∧ s.rawByte (s.dptr.toNat + k) = bs.getD k 0) := by
  cases hv : s.walk.verify <;> simp [mayEmit, hv, and_assoc]

/-- Of bytes that may be emitted the first ones may, and the others after them. -/
theorem mayEmit_append (h : mayEmit (bs ++ cs) s = true) :
    mayEmit bs s = true ∧ ∀ t, EmitsBytes bs s t → t.rawCap = s.rawCap → mayEmit cs t = true := by
  obtain ⟨hdrem, hdptr, hverify⟩ := mayEmit_iff.mp h
  rw [List.length_append] at hdrem hdptr hverify
  refine ⟨mayEmit_iff.mpr ⟨by omega, by omega, fun hv k hk => ?_⟩, fun t hemits hcap => ?_⟩
  · obtain ⟨hlt, hbyte⟩ := hverify hv k (by omega)
    exact ⟨hlt, hbyte.trans (List.getD_append _ _ _ _ hk)⟩
  · obtain ⟨hdptr', hdrem', _, hmode, hraw⟩ := hemits
    refine mayEmit_iff.mpr ⟨by omega, by omega, fun hv k hk => ?_⟩
    rw [hmode] at hv
    rw [if_pos hv] at hraw
    obtain ⟨hlt, hbyte⟩ := hverify hv (bs.length + k) (by omega)
    rw [List.getD_append_right _ _ _ _ (by omega), Nat.add_sub_cancel_left, ← Nat.add_assoc] at hbyte
    rw [hdptr', hcap, State.rawByte, hraw.1]
    exact ⟨by omega, hbyte⟩

/-- Where bytes may be emitted, the first one goes through and the others may be emitted after it. -/
theorem rawEmit_of_mayEmit_cons {v : Byte} (h : mayEmit (v :: bs) s = true) :
    ∃ t, rawEmit v s = .ok () t ∧ EmitsBytes [v] s t ∧ mayEmit bs t = true := by
  obtain ⟨hfirst, hrest⟩ := mayEmit_append (bs := [v]) h
  obtain ⟨hd, hroom, hv⟩ := mayEmit_singleton.mp hfirst
  obtain ⟨t, ht⟩ := rawEmit_goes hd hv
  have hemits := rawEmit_emitsBytes ht hroom
  exact ⟨t, ht, hemits, hrest t hemits (congrArg State.rawCap (rawEmit_ok ht).2.2.2 :)⟩

/-- Bytes that can be read and may be emitted are emitted, and nothing else is written (R214). -/
theorem emitBytes_goes (hlen : a + n ≤ s.pkLen.toNat) (h : mayEmit (pkBytes a n s) s = true) :
    ∃ t, emitBytes a n s = .ok () t ∧ EmitsBytes (pkBytes a n s) s t := by
  induction n generalizing a s with
  | zero => exact ⟨s, rfl, emitsBytes_nil s⟩
  | succ n ih =>
    rw [pkBytes_succ] at h ⊢
    obtain ⟨t, ht, hemits, hrest⟩ := rawEmit_of_mayEmit_cons h
    have hframe := (rawEmit_ok ht).2.2.2
    have hpk : pkBytes (a + 1) n t = pkBytes (a + 1) n s := (congrArg (pkBytes (a + 1) n) hframe :)
    have hpkLen : t.pkLen = s.pkLen := (congrArg State.pkLen hframe :)
    obtain ⟨u, hu, hemits'⟩ := ih (a := a + 1) (s := t) (by rw [hpkLen]; omega) (hpk ▸ hrest)
    rw [hpk] at hemits'
    refine ⟨u, ?_, emitsBytes_append hemits hemits' (congrArg State.rawCap hframe :)⟩
    rw [emitBytes, pkRead_below (by omega), Res.bind_ok, ht, Res.bind_ok, hu]

theorem emitBytes_add (a j n : Nat) (s : State) :
    emitBytes a (j + n) s = (emitBytes a j s).bind fun _ t => emitBytes (a + j) n t := by
  induction j generalizing a s with
  | zero => rw [Nat.zero_add, emitBytes, Res.bind_ok, Nat.add_zero]
  | succ j ih =>
    rw [Nat.add_right_comm]
    simp only [emitBytes, Res.bind_assoc, ih, Nat.add_assoc, Nat.add_comm 1]

section Stops

variable (hj : j < n) (hlen : a + j ≤ s.pkLen.toNat) (h : mayEmit (pkBytes a j s) s = true)
include hj hlen h

/-- Emission reaches byte `j` when those before it may be emitted; that one is read, then emitted (R214). -/
theorem emitBytes_reaches : ∃ w, EmitsBytes (pkBytes a j s) s w ∧
    w = { s with dptr := w.dptr, drem := w.drem, raw := w.raw, ovf := w.ovf, rlen := w.rlen,
                 walk := { s.walk with count := w.walk.count } } ∧
    emitBytes a n s = (pkRead (a + j) w).bind fun v w =>
      (rawEmit v w).bind fun _ w => emitBytes (a + j + 1) (n - j - 1) w := by
  obtain ⟨w, hw, hemits⟩ := emitBytes_goes hlen h
  obtain ⟨m, rfl⟩ : ∃ m, n = j + (m + 1) := ⟨n - j - 1, by omega⟩
  refine ⟨w, hemits, emitBytes_frame hw, ?_⟩
  rw [emitBytes_add, hw, Res.bind_ok, emitBytes, Nat.add_sub_cancel_left, Nat.add_sub_cancel]

theorem emitBytes_beyond (hend : s.pkLen.toNat = a + j) :
    ∃ w, emitBytes a n s = .raise (.rangeFault ((a + j) % 2 ^ 32)) w := by
  obtain ⟨w, _, hframe, heq⟩ := emitBytes_reaches hj hlen h
  have hpkLen : w.pkLen = s.pkLen := (congrArg State.pkLen hframe :)
  exact ⟨w, by rw [heq, pkRead_beyond (by rw [hpkLen]; omega), Res.bind_raise]⟩

variable (hread : a + j < s.pkLen.toNat)
include hread

/-- A byte that is read goes to emission. -/
theorem emitBytes_emission : ∃ w, EmitsBytes (pkBytes a j s) s w ∧ w.tp = s.tp ∧ w.rawCap = s.rawCap ∧
    emitBytes a n s = (rawEmit (s.pkByte (a + j)) w).bind fun _ w => emitBytes (a + j + 1) (n - j - 1) w := by
  obtain ⟨w, hemits, hframe, heq⟩ := emitBytes_reaches hj hlen h
  have hpkLen : w.pkLen = s.pkLen := (congrArg State.pkLen hframe :)
  have hpk : w.pkByte (a + j) = s.pkByte (a + j) := (congrArg (State.pkByte · (a + j)) hframe :)
  refine ⟨w, hemits, (congrArg State.tp hframe :), (congrArg State.rawCap hframe :), ?_⟩
  rw [heq, pkRead_below (by rw [hpkLen]; omega), Res.bind_ok, hpk]

theorem emitBytes_block_done (hd : s.drem.toNat = j) :
    ∃ w, emitBytes a n s = .raise (.malformedStream s.tp.toNat) w := by
  obtain ⟨w, hemits, htp, _, heq⟩ := emitBytes_emission hj hlen h hread
  obtain ⟨_, hdrem, _⟩ := hemits
  rw [pkBytes_length] at hdrem
  exact ⟨w, by rw [heq, rawEmit_block_done _ (by bv_omega), Res.bind_raise, htp]⟩

theorem emitBytes_mismatch (hd : j < s.drem.toNat) (hv : s.walk.verify = true)
    (hbad : s.rawCap.toNat ≤ s.dptr.toNat + j ∨ s.rawByte (s.dptr.toNat + j) ≠ s.pkByte (a + j)) :
    ∃ w, emitBytes a n s = .raise (.verifyFail (s.dptr.toNat + j)) w := by
  obtain ⟨w, hemits, _, hcap, heq⟩ := emitBytes_emission hj hlen h hread
  obtain ⟨hdptr, hdrem, _, hmode, hraw⟩ := hemits
  rw [pkBytes_length] at hdptr hdrem
  rw [if_pos hv] at hraw
  rw [← hdptr, ← hcap] at hbad
  have hraw : w.rawByte = s.rawByte := by funext b; rw [State.rawByte, hraw.1]; rfl
  refine ⟨w, ?_⟩
  rw [heq, rawEmit_mismatch (by bv_omega) (hmode.trans hv) (hraw ▸ hbad), Res.bind_raise, hdptr]

end Stops

/-! ### Leaf entries -/

/-- From `s` to `t` the leaf entry at the walk's position emitted `bs`, and wrote nothing else than the position in TP,
and the walk (R213 to R215). -/
structure EntryEmits (bs : List Byte) (s t : State) : Prop where
  emits : EmitsBytes bs s t
  tp : t.tp = BitVec.ofNat 32 s.walk.pos
  frame : t = emissionFrom t s

/-- Where the walk goes after emission does not matter for what was emitted. -/
theorem EntryEmits.of_emission (h : EmitsBytes bs (setTp s) w)
    (hframe : w = { setTp s with dptr := w.dptr, drem := w.drem, raw := w.raw, ovf := w.ovf, rlen := w.rlen,
                                 walk := { s.walk with count := w.walk.count } }) (ph : Phase) (p : Nat) :
    EntryEmits bs s { w with walk := { w.walk with phase := ph, pos := p } } := by
  refine ⟨h, (congrArg State.tp hframe :), ?_⟩
  rw [hframe]
  rfl

theorem nodeLeafB_goes {d : Byte} (h : mayEmit [d] s = true) :
    ∃ t, nodeLeafB d s = .ok () t ∧ EntryEmits [d] s t ∧ t.walk.phase = .idle := by
  obtain ⟨w, hw, hemits, _⟩ := rawEmit_of_mayEmit_cons (s := setTp s) h
  obtain ⟨_, hdptr, hdrem, hframe⟩ := rawEmit_ok hw
  have hcount : w.walk.count = s.walk.count + 1 := (congrArg (·.walk.count) hframe :)
  refine ⟨endSymbol w, by rw [nodeLeafB, hw, Res.bind_ok], .of_emission hemits ?_ .idle w.walk.pos, rfl⟩
  rw [hcount, hdptr, hdrem]
  exact hframe

/-- The string of a LEAF.S or LEAF.X (R214, R215). -/
theorem emitString_goes {n : Byte} (hlen : s.walk.pos + 2 + n.toNat ≤ s.pkLen.toNat)
    (h : mayEmit (pkBytes (s.walk.pos + 2) n.toNat s) s = true) :
    ∃ w, emitBytes (s.walk.pos + 2) n.toNat (setTp s) = .ok () w ∧ w.pkLen = s.pkLen ∧ w.walk.pos = s.walk.pos ∧
      w.tbase = s.tbase ∧ w.pkByte = s.pkByte ∧
      ∀ ph p, EntryEmits (pkBytes (s.walk.pos + 2) n.toNat s) s
        { w with walk := { w.walk with phase := ph, pos := p } } := by
  obtain ⟨w, hw, hemits⟩ := emitBytes_goes (s := setTp s) hlen h
  have hframe := emitBytes_frame hw
  exact ⟨w, hw, (congrArg State.pkLen hframe :), (congrArg (·.walk.pos) hframe :),
    (congrArg State.tbase hframe :), (congrArg State.pkByte hframe :), .of_emission hemits hframe⟩

theorem nodeLeafS_goes {n : Byte} (hlen : s.walk.pos + 2 + n.toNat ≤ s.pkLen.toNat)
    (h : mayEmit (pkBytes (s.walk.pos + 2) n.toNat s) s = true) :
    ∃ t, nodeLeafS n s = .ok () t ∧ EntryEmits (pkBytes (s.walk.pos + 2) n.toNat s) s t ∧ t.walk.phase = .idle := by
  obtain ⟨w, hw, _, _, _, _, hentry⟩ := emitString_goes hlen h
  exact ⟨endSymbol w, by rw [nodeLeafS, hw, Res.bind_ok], hentry .idle w.walk.pos, rfl⟩

theorem nodeLeafX_goes {n : Byte} (hlen : s.walk.pos + 4 + n.toNat ≤ s.pkLen.toNat)
    (h : mayEmit (pkBytes (s.walk.pos + 2) n.toNat s) s = true) :
    ∃ t, nodeLeafX n s = .ok () t ∧ EntryEmits (pkBytes (s.walk.pos + 2) n.toNat s) s t ∧ t.walk.phase = .emission ∧
      t.walk.pos = s.tbase.toNat +
        leWord (s.pkByte (s.walk.pos + 2 + n.toNat)) (s.pkByte (s.walk.pos + 3 + n.toNat)) := by
  obtain ⟨w, hw, hpkLen, hpos, hbase, hpk, hentry⟩ := emitString_goes (by omega) h
  refine ⟨_, ?_, hentry .emission _, rfl, rfl⟩
  rw [nodeLeafX, hw, Res.bind_ok, hpos, pkRead_below (by rw [hpkLen]; omega), Res.bind_ok,
    hpos, pkRead_below (by rw [hpkLen]; omega), Res.bind_ok, hpk, hbase]

/-- Settles O53, entry by entry. -/
theorem leafNodesEmit : Obligations.LeafNodesEmit := by
  refine fun s => ⟨fun d h => ?_, fun n hlen h => ?_, fun n hlen h => ?_⟩
  · obtain ⟨t, ht, hentry, hidle⟩ := nodeLeafB_goes h
    exact ⟨t, nodeOutcome_goes ht, hentry.emits, hentry.tp, hidle⟩
  · obtain ⟨t, ht, hentry, hidle⟩ := nodeLeafS_goes hlen h
    exact ⟨t, nodeOutcome_goes ht, hentry.emits, hentry.tp, hidle⟩
  · obtain ⟨t, ht, hentry, hphase, hpos⟩ := nodeLeafX_goes hlen h
    exact ⟨t, nodeOutcome_goes ht, hentry.emits, hentry.tp, hphase, by rw [hpos, leWord, ← Nat.add_assoc]⟩

/-! ### Where a leaf entry faults -/

/-- TP holds the position as EINFO can record it (10_state R34). -/
theorem faultsWith_malformedStream_tp {o : Host.Outcome State Fault Refusal}
    (h : FaultsWith o (.malformedStream (setTp s).tp.toNat)) : FaultsWith o (.malformedStream s.walk.pos) :=
  faultsWith_recorded h rfl (BitVec.eq_of_toNat_eq (by simp [Cause.info, setTp]))

theorem nodeLeafB_faultsWith {d : Byte} (h : rawEmit d (setTp s) = .raise c w) : FaultsWith (exec (.leafB d) s) c :=
  nodeOutcome_faultsWith (t := w) (by rw [nodeLeafB, h, Res.bind_raise])

/-- A fault in the string of a LEAF.S or LEAF.X is the entry's. -/
theorem string_faultsWith {n : Byte} (hi : i = .leafS n ∨ i = .leafX n)
    (h : ∃ w, emitBytes (s.walk.pos + 2) n.toNat (setTp s) = .raise c w) : FaultsWith (exec i s) c := by
  obtain ⟨w, hw⟩ := h
  obtain rfl | rfl := hi
  · exact nodeOutcome_faultsWith (t := w) (by rw [nodeLeafS, hw, Res.bind_raise])
  · exact nodeOutcome_faultsWith (t := w) (by rw [nodeLeafX, hw, Res.bind_raise])

/-- Settles O54: what stops emission at its byte `j`, then the two reads of the offset. -/
theorem leafNodesFault : Obligations.LeafNodesFault := by
  refine fun s => ⟨fun d hd => ?_, fun d hd hv hbad => ?_, fun n j i hj hi h => ⟨fun hend => ?_, fun hread hd => ?_,
    fun hread hd hv hbad => ?_⟩, fun n h => ⟨fun hend => ?_, fun hend => ?_⟩⟩
  · exact faultsWith_malformedStream_tp (nodeLeafB_faultsWith (rawEmit_block_done d hd))
  · exact nodeLeafB_faultsWith (rawEmit_mismatch (s := setTp s) hd hv hbad)
  · exact faultsWith_rangeFault_mod
      (string_faultsWith hi (emitBytes_beyond (s := setTp s) hj hend.ge h hend))
  · exact faultsWith_malformedStream_tp
      (string_faultsWith hi (emitBytes_block_done (s := setTp s) hj hread.le h hread hd))
  · exact string_faultsWith hi (emitBytes_mismatch (s := setTp s) hj hread.le h hread hd hv hbad)
  · obtain ⟨w, hw, hpkLen, hpos, _⟩ := emitString_goes hend.ge h
    refine faultsWith_rangeFault_mod (nodeOutcome_faultsWith (t := w) ?_)
    rw [nodeLeafX, hw, Res.bind_ok, hpos, pkRead_beyond (by rw [hpkLen]; omega), Res.bind_raise]
  · obtain ⟨w, hw, hpkLen, hpos, _⟩ := emitString_goes (by omega) h
    refine faultsWith_rangeFault_mod (nodeOutcome_faultsWith (t := w) ?_)
    rw [nodeLeafX, hw, Res.bind_ok, hpos, pkRead_below (by rw [hpkLen]; omega), Res.bind_ok, hpos,
      pkRead_beyond (by rw [hpkLen]; omega), Res.bind_raise]

end Sys2Proof.Machine
end

section
/-! SUPPORT. The decode walk of one symbol and the decode commands (44_decode R217, R220 to R223): the fetch of a node in
full, everything that a step of the walk can do, walks and blocks that end, and the obligations about the commands. -/

namespace Sys2Proof.Machine

open Sys2Proof.Safety

variable {α : Type} {s t u v : State} {x : Unit} {k m n : Nat} {b d : Byte} {bs : List Byte} {verify : Bool}

/-! ### The fetch -/

theorem pkReadList_ok {a n : Nat} (h : pkReadList a n s = .ok bs t) :
    a + n ≤ max a s.pkLen.toNat ∧ bs = pkBytes a n s ∧ t = s := by
  induction n generalizing a bs with
  | zero => cases h; exact ⟨by omega, rfl, rfl⟩
  | succ n ih =>
    obtain ⟨b, w, hw, hrest⟩ := Res.bind_eq_ok.mp h
    obtain ⟨hlt, rfl, rfl⟩ := pkRead_ok.mp hw
    obtain ⟨rest, v, hv, hend⟩ := Res.bind_eq_ok.mp hrest
    cases hend
    obtain ⟨hle, rfl, rfl⟩ := ih hv
    exact ⟨by omega, (pkBytes_succ ..).symm, rfl⟩

/-- The byte `i` after the header of a node whose header byte is `b`, 0 beyond its fixed part. -/
def fixedByte (s : State) (b : Byte) (i : Nat) : Byte := (pkBytes (s.walk.pos + 1) (nodeFixedLen b - 1) s).getD i 0

/-- A node that passes the format check and whose fixed part can be read is gone on with. -/
theorem withNode_goes {k : Byte → Byte → Byte → State → Res α} (hb : s.pkByte s.walk.pos = b)
    (hlen : s.walk.pos + nodeFixedLen b ≤ s.pkLen.toNat) (htag : s.walk.phase = .emission → b.toNat ≤ 2) :
    withNode k s = k b (fixedByte s b 0) (fixedByte s b 1) s := by
  have hpos := nodeFixedLen_pos b
  have hleaf : ¬ (s.walk.phase = .emission ∧ 2 < b.toNat) := fun ⟨hp, h2⟩ => absurd (htag hp) (by omega)
  rw [withNode, pkRead_below (by omega), Res.bind_ok, hb, if_neg hleaf, pkReadList_below (by omega), Res.bind_ok]
  rfl

/-- No other node is. -/
theorem withNode_ok {k : Byte → Byte → Byte → State → Res α} {a : α} (h : withNode k s = .ok a t) :
    ∃ b, s.pkByte s.walk.pos = b ∧ s.walk.pos + nodeFixedLen b ≤ s.pkLen.toNat ∧
      (s.walk.phase = .emission → b.toNat ≤ 2) ∧ k b (fixedByte s b 0) (fixedByte s b 1) s = .ok a t := by
  obtain ⟨b, w, hw, hcheck⟩ := Res.bind_eq_ok.mp h
  obtain ⟨hlt, hb, rfl⟩ := pkRead_ok.mp hw
  have hpos := nodeFixedLen_pos b
  split at hcheck
  · cases hcheck
  · next hleaf =>
    obtain ⟨rest, v, hv, hk⟩ := Res.bind_eq_ok.mp hcheck
    obtain ⟨hle, rfl, rfl⟩ := pkReadList_ok hv
    exact ⟨b, hb.symm, by omega, fun hp => Nat.not_lt.mp fun h2 => hleaf ⟨hp, h2⟩, hk⟩

/-- What a node does in a walk, by its header byte and the bytes after it. -/
def nodeMeaning (b b1 b2 : Byte) : State → Res Unit :=
  caseNode b b1 b2 nodeLeafB nodeLeafS nodeLeafX nodeBr nodeBrl

theorem nodeStep_goes (hb : s.pkByte s.walk.pos = b) (hlen : s.walk.pos + nodeFixedLen b ≤ s.pkLen.toNat)
    (htag : s.walk.phase = .emission → b.toNat ≤ 2) :
    nodeStep s = nodeMeaning b (fixedByte s b 0) (fixedByte s b 1) s :=
  withNode_goes hb hlen htag

theorem nodeStep_leafB (hb : s.pkByte s.walk.pos = 0x00) (hlen : s.walk.pos + 2 ≤ s.pkLen.toNat) :
    nodeStep s = nodeLeafB (s.pkByte (s.walk.pos + 1)) s :=
  nodeStep_goes hb hlen fun _ => Nat.zero_le 2

theorem nodeStep_leafS (hb : s.pkByte s.walk.pos = 0x01) (hlen : s.walk.pos + 2 ≤ s.pkLen.toNat) :
    nodeStep s = nodeLeafS (s.pkByte (s.walk.pos + 1)) s :=
  nodeStep_goes hb hlen fun _ => Nat.le_succ 1

theorem nodeStep_leafX (hb : s.pkByte s.walk.pos = 0x02) (hlen : s.walk.pos + 2 ≤ s.pkLen.toNat) :
    nodeStep s = nodeLeafX (s.pkByte (s.walk.pos + 1)) s :=
  nodeStep_goes hb hlen fun _ => le_rfl

/-- A node by itself is its meaning in the walk (log entry 4). -/
theorem exec_decodeNode (b b1 b2 : Byte) (s : State) :
    exec (decodeNode b b1 b2) s = nodeOutcome (nodeMeaning b b1 b2) s := by
  unfold decodeNode nodeMeaning caseNode
  split_ifs <;> rfl

theorem nodeStep_err (h : nodeStep s = .ok x u) : u.err = s.err := err_of_controlPart (nodeStep_works.ok h).control

/-- A node of the walk goes through exactly where a step does without a fault, and to the same state (R217). -/
theorem nodeStep_ok_iff_step (hp : s.walk.phase = .descent ∨ s.walk.phase = .emission) (he : s.err = 0) :
    nodeStep s = .ok () u ↔ step s = .next u ∧ u.err = 0 := by
  rw [step_of_walk hp, walkStep]
  constructor
  · intro h
    obtain ⟨b, hb, hlen, htag, hnode⟩ := withNode_ok h
    have hfetch : fetchNode s = .ok (decodeNode b (fixedByte s b 0) (fixedByte s b 1)) s := withNode_goes hb hlen htag
    rw [hfetch]
    exact ⟨(exec_decodeNode ..).trans (nodeOutcome_goes hnode), (nodeStep_err h).trans he⟩
  · rintro ⟨h, hu⟩
    split at h
    · next hfetch =>
      obtain ⟨b, hb, hlen, htag, hdec⟩ := withNode_ok hfetch
      cases hdec
      rw [exec_decodeNode] at h
      exact (nodeStep_goes hb hlen htag).trans (nodeOutcome_completed h hu)
    · next c w _ => cases h; exact absurd hu c.code_ne_zero
    · cases h

/-! ### What a step of the walk can do -/

/-- A branch moves the walk to a higher address by the next bit, and the reader past that bit (R211, R212). -/
structure BranchStep (s u : State) : Prop where
  phase : s.walk.phase ≠ .emission
  pos : s.walk.pos < u.walk.pos
  frame : u = { (bitRead s).2 with walk := { s.walk with phase := .descent, pos := u.walk.pos } }

/-- A leaf entry that emits `m` bytes ends the symbol or jumps to one of 65536 addresses; without a byte it moves the
walk alone, but for TP (R213 to R215). -/
structure LeafStep (m : Nat) (s u : State) : Prop where
  drem : u.drem.toNat + m = s.drem.toNat
  count : u.walk.count = s.walk.count + m
  target : u.walk.phase = .idle ∨
    u.walk.phase = .emission ∧ s.tbase.toNat ≤ u.walk.pos ∧ u.walk.pos < s.tbase.toNat + 65536
  silent : m = 0 → u = { setTp s with walk := { s.walk with phase := u.walk.phase, pos := u.walk.pos } }
  frame : u = emissionFrom u s

theorem branch_step {l r : Nat} (h : branch l r s = .ok x u) (hl : s.walk.pos < l) (hr : s.walk.pos < r) :
    BranchStep s u := by
  unfold branch at h
  split at h
  · cases h
  · next hp =>
    cases h
    refine ⟨hp, ?_, rfl⟩
    dsimp only
    split <;> assumption

/-- Emission of `n` bytes moves DREM and the count by `n`. -/
theorem emitBytes_cursor {a n : Nat} (h : emitBytes a n s = .ok x t) :
    t.drem.toNat + n = s.drem.toNat ∧ t.walk.count = s.walk.count + n ∧ (n = 0 → t = s) := by
  induction n generalizing a s with
  | zero => cases h; exact ⟨rfl, rfl, fun _ => rfl⟩
  | succ n ih =>
    obtain ⟨b, w, hw, hemit⟩ := Res.bind_eq_ok.mp h
    obtain ⟨_, _, rfl⟩ := pkRead_ok.mp hw
    obtain ⟨_, v, hv, hrest⟩ := Res.bind_eq_ok.mp hemit
    obtain ⟨hd, _, hdrem, hframe⟩ := rawEmit_ok hv
    have hcount : v.walk.count = w.walk.count + 1 := (congrArg (·.walk.count) hframe :)
    obtain ⟨hdrem', hcount', _⟩ := ih hrest
    exact ⟨by rw [hdrem] at hdrem'; bv_omega, by omega, nofun⟩

theorem nodeLeafB_step (h : nodeLeafB d s = .ok x u) : LeafStep 1 s u := by
  obtain ⟨_, w, hw, h⟩ := Res.bind_eq_ok.mp h
  cases h
  obtain ⟨hd, _, hdrem, hframe⟩ := rawEmit_ok hw
  have hd : s.drem ≠ 0 := hd
  have hdrem : w.drem = s.drem - 1 := hdrem
  refine ⟨?_, (congrArg (·.walk.count) hframe :), .inl rfl, nofun, ?_⟩
  · rw [endSymbol_drem, hdrem]
    bv_omega
  · rw [hframe]
    rfl

/-- After the string of a LEAF.S or LEAF.X the walk goes where the entry says. -/
theorem string_step {a n p : Nat} {ph : Phase} (h : emitBytes a n (setTp s) = .ok x t)
    (htarget : ph = .idle ∨ ph = .emission ∧ s.tbase.toNat ≤ p ∧ p < s.tbase.toNat + 65536) :
    LeafStep n s { t with walk := { t.walk with phase := ph, pos := p } } := by
  obtain ⟨hdrem, hcount, hsilent⟩ := emitBytes_cursor h
  refine ⟨hdrem, hcount, htarget, fun h0 => ?_, ?_⟩
  · rw [hsilent h0]
    rfl
  · rw [emitBytes_frame h]
    rfl

theorem nodeLeafS_step (h : nodeLeafS d s = .ok x u) : LeafStep d.toNat s u := by
  obtain ⟨_, w, hw, h⟩ := Res.bind_eq_ok.mp h
  cases h
  exact string_step hw (p := w.walk.pos) (.inl rfl)

theorem nodeLeafX_step (h : nodeLeafX d s = .ok x u) : LeafStep d.toNat s u := by
  obtain ⟨_, w, hw, hfield⟩ := Res.bind_eq_ok.mp h
  have hbase : w.tbase = s.tbase := (congrArg State.tbase (emitBytes_frame hw) :)
  obtain ⟨lo, w', hlo, hhigh⟩ := Res.bind_eq_ok.mp hfield
  obtain ⟨_, _, hw'⟩ := pkRead_ok.mp hlo
  obtain ⟨hi, w'', hhi, hjump⟩ := Res.bind_eq_ok.mp hhigh
  obtain ⟨_, _, hw''⟩ := pkRead_ok.mp hhi
  cases hjump
  rw [hw'', hw']
  have hle := leWord_le lo hi
  exact string_step hw (.inr ⟨rfl, by rw [hbase]; omega, by rw [hbase]; omega⟩)

/-- Everything a step of the walk can do: it reads its node below PK_LEN, and is a branch outside the emission phase,
or a leaf entry. -/
theorem nodeStep_cases (h : nodeStep s = .ok x u) :
    s.walk.pos < s.pkLen.toNat ∧ (BranchStep s u ∨ ∃ m, LeafStep m s u) := by
  obtain ⟨b, _, hlen, _, h⟩ := withNode_ok h
  have hpos := nodeFixedLen_pos b
  refine ⟨by omega, ?_⟩
  unfold caseNode at h
  split at h
  · exact .inr ⟨_, nodeLeafB_step h⟩
  · split at h
    · exact .inr ⟨_, nodeLeafS_step h⟩
    · split at h
      · exact .inr ⟨_, nodeLeafX_step h⟩
      · split at h
        · exact .inl (branch_step h (by omega) (by omega))
        · next hzero _ _ _ => exact .inl (branch_step h (by omega) (by bv_omega))

/-- The bytes emitted so far and those still to come are as many after a step as before it. -/
theorem nodeStep_count_add_drem {s u : State} (h : nodeStep s = .ok () u) :
    u.walk.count + u.drem.toNat = s.walk.count + s.drem.toNat := by
  obtain ⟨_, hbranch | ⟨m, hleaf⟩⟩ := nodeStep_cases h
  · rw [hbranch.frame, bitRead_frame]
  · have hdrem := hleaf.drem
    have hcount := hleaf.count
    omega

/-! ### Walks that end -/

/-- What every step of the walk does, a whole walk does. -/
theorem walkEndsIn_lift {R : State → State → Prop} (htrans : ∀ {s t u}, R s t → R t u → R s u)
    (hstep : ∀ {s u}, nodeStep s = .ok () u → R s u) (h : WalkEndsIn k s t) : R s t := by
  induction k generalizing s with
  | zero => exact h.elim
  | succ k ih =>
    obtain ⟨u, hu, ⟨_, rfl⟩ | ⟨_, hrest⟩⟩ := h
    · exact hstep hu
    · exact htrans (hstep hu) (ih hrest)

theorem runWalk_of_walkEndsIn (h : WalkEndsIn k s t) (hk : k ≤ n) : runWalk n s = .ok () t := by
  induction k generalizing n s with
  | zero => exact h.elim
  | succ k ih =>
    obtain ⟨n, rfl⟩ : ∃ m, n = m + 1 := ⟨n - 1, by omega⟩
    obtain ⟨u, hu, ⟨hidle, rfl⟩ | ⟨hphase, hrest⟩⟩ := h
    · rw [runWalk, hu, Res.bind_ok, if_pos hidle]
    · rw [runWalk, hu, Res.bind_ok, if_neg hphase, ih hrest (by omega)]

theorem walkEndsIn_of_runWalk (h : runWalk n s = .ok x t) : ∃ k ≤ n, WalkEndsIn k s t := by
  induction n generalizing s with
  | zero => cases h
  | succ n ih =>
    obtain ⟨_, u, hu, h⟩ := Res.bind_eq_ok.mp h
    split at h
    · next hidle => cases h; exact ⟨1, by omega, t, hu, .inl ⟨hidle, rfl⟩⟩
    · next hphase =>
      obtain ⟨k, hk, hrest⟩ := ih h
      exact ⟨k + 1, by omega, u, hu, .inr ⟨hphase, hrest⟩⟩

/-- `dec_symbol` completes exactly when its walk ends within the model's bound (R217). -/
theorem decSymbol_ok : decSymbol verify s = .ok n t ↔
    (∃ k ≤ walkBound s, WalkEndsIn k (startWalk verify s) t) ∧ t.walk.count = n := by
  rw [decSymbol, Res.bind_eq_ok]
  constructor
  · rintro ⟨_, u, hu, h⟩
    cases h
    exact ⟨walkEndsIn_of_runWalk hu, rfl⟩
  · rintro ⟨⟨k, hk, h⟩, rfl⟩
    exact ⟨(), t, runWalk_of_walkEndsIn h hk, rfl⟩

/-- The number that `dec_symbol` returns is what DREM has lost. -/
theorem decSymbol_drem (h : decSymbol verify s = .ok n t) : n + t.drem.toNat = s.drem.toNat := by
  obtain ⟨⟨k, _, hwalk⟩, rfl⟩ := decSymbol_ok.mp h
  have hsum := walkEndsIn_lift
    (R := fun s t => t.walk.count + t.drem.toNat = s.walk.count + s.drem.toNat)
    (fun h h' => h'.trans h) nodeStep_count_add_drem hwalk
  exact hsum.trans (Nat.zero_add _)

/-! ### The decode commands -/

theorem checkLength_goes (h : s.dptr.toNat + n ≤ 2 ^ 32 - 1) : checkLength n s = .ok () s := by
  rw [checkLength, if_neg (Nat.not_lt.mpr h)]

theorem checkLength_operand (h : 2 ^ 32 - 1 < s.dptr.toNat + n) : checkLength n s = .raise (.operand n) s := by
  rw [checkLength, if_pos h]

theorem execDecSym_operand (ha : s.accepts false = true) (h : 2 ^ 32 - 1 < s.dptr.toNat + s.drem.toNat) :
    FaultsWith (execDecSym s) (.operand s.drem.toNat) :=
  command_faultsWith (t := s) ha (by rw [checkLength_operand h, Res.bind_raise])

theorem execDecBlock_operand (ha : s.accepts false = true) (h : 2 ^ 32 - 1 < s.dptr.toNat + s.arg0.toNat) :
    FaultsWith (execDecBlock s) (.operand s.arg0.toNat) :=
  command_faultsWith (t := s) ha (by rw [checkLength_operand h, Res.bind_raise])

/-- Settles O59: the check is the first thing either command does. -/
theorem decodeLengthFaults : Obligations.DecodeLengthFaults :=
  fun _ ha => ⟨execDecSym_operand ha, execDecBlock_operand ha⟩

theorem execDecSym_completes (ha : s.accepts false = true) (hroom : s.dptr.toNat + s.drem.toNat ≤ 2 ^ 32 - 1)
    (h : decSymbol s.arg0Bit s = .ok n t) :
    execDecSym s = .next { t with res0 := BitVec.ofNat 32 n, walk := Walk.none } :=
  command_completes ha (by rw [checkLength_goes hroom, Res.bind_ok, h, Res.bind_ok]; rfl)

/-- Settles O55: fuel beyond the walk's own length does not matter. -/
theorem decSymRunsOneWalk : Obligations.DecSymRunsOneWalk :=
  ⟨rfl, fun _ _ hp he => nodeStep_ok_iff_step hp he,
    fun _ _ k ha hroom hk h => execDecSym_completes ha hroom (decSymbol_ok.mpr ⟨⟨k, hk, h⟩, rfl⟩)⟩

/-- The loop of DEC_BLOCK goes through the symbols one by one, and adds up what DREM loses (R222). -/
theorem decBlockLoop_of_symbols (h : SymbolsLeadTo verify k s t) (h0 : t.drem = 0) (hk : k < n) (total : Nat) :
    decBlockLoop verify n total s = .ok (total + s.drem.toNat) t := by
  induction k generalizing n s total with
  | zero =>
    obtain ⟨n, rfl⟩ : ∃ m, n = m + 1 := ⟨n - 1, by omega⟩
    obtain rfl : s = t := h
    rw [decBlockLoop, if_pos h0, h0]
    rfl
  | succ k ih =>
    obtain ⟨n, rfl⟩ : ∃ m, n = m + 1 := ⟨n - 1, by omega⟩
    obtain ⟨hd, m, u, hu, hrest⟩ := h
    have hdrem := decSymbol_drem hu
    rw [decBlockLoop, if_neg hd, hu, Res.bind_ok, ih hrest (by omega), ← hdrem, Nat.add_assoc]

theorem execDecBlock_completes (ha : s.accepts false = true) (hroom : s.dptr.toNat + s.arg0.toNat ≤ 2 ^ 32 - 1)
    (hk : k < blockBound { s with drem := s.arg0 }) (h : SymbolsLeadTo s.arg1Bit k { s with drem := s.arg0 } t)
    (h0 : t.drem = 0) : execDecBlock s = .next { t with res0 := s.arg0, walk := Walk.none } := by
  have hloop := decBlockLoop_of_symbols h h0 hk 0
  rw [Nat.zero_add] at hloop
  refine command_completes ha ?_
  rw [checkLength_goes hroom, Res.bind_ok]
  exact (congrArg (Res.bind · _) hloop).trans (by rw [Res.bind_ok, BitVec.ofNat_toNat, BitVec.setWidth_eq]; rfl)

/-- Settles O56: the symbols emit what DREM loses, and DPTR rises by as much. -/
theorem decBlockDecodesUntilDremZero : Obligations.DecBlockDecodesUntilDremZero := by
  refine ⟨rfl, fun s t k ha hroom hk h h0 => ?_⟩
  have hexec := execDecBlock_completes ha hroom hk h h0
  refine ⟨hexec, ?_⟩
  have hmoves := ((decBlockLoop_storesRaw _ _ _).ok (decBlockLoop_of_symbols h h0 hk 0)).moves
    (Nat.lt_of_le_pred (by decide) hroom)
  have htotal := hmoves.total
  rw [h0] at htotal
  exact htotal

/-! ### The height-0 table -/

/-- A walk whose first node is a leaf entry that ends the symbol ends there. -/
theorem decSymbol_of_first (h : nodeStep (startWalk verify s) = .ok () u) (hidle : u.walk.phase = .idle) :
    decSymbol verify s = .ok u.walk.count u :=
  decSymbol_ok.mpr ⟨⟨1, by unfold walkBound; omega, u, h, .inl ⟨hidle, rfl⟩⟩, rfl⟩

theorem decSymbol_leafB (hb : s.pkByte s.tbase.toNat = 0x00) (hlen : s.tbase.toNat + 1 < s.pkLen.toNat)
    (h : mayEmit [s.pkByte (s.tbase.toNat + 1)] (startWalk verify s) = true) :
    ∃ u, decSymbol verify s = .ok 1 u ∧ EntryEmits [s.pkByte (s.tbase.toNat + 1)] (startWalk verify s) u := by
  obtain ⟨u, hu, hentry, hidle⟩ := nodeLeafB_goes h
  have hcount : u.walk.count = 1 := by
    obtain ⟨_, _, hcount, _⟩ := hentry.emits
    exact hcount
  have hstep := (nodeStep_leafB (s := startWalk verify s) hb hlen).trans hu
  exact ⟨u, hcount ▸ decSymbol_of_first hstep hidle, hentry⟩

theorem decSymbol_leafS (hb : s.pkByte s.tbase.toNat = 0x01) (hlen : s.tbase.toNat + 1 < s.pkLen.toNat)
    (hd : s.pkByte (s.tbase.toNat + 1) = d) (hend : s.tbase.toNat + 2 + d.toNat ≤ s.pkLen.toNat)
    (h : mayEmit (pkBytes (s.tbase.toNat + 2) d.toNat s) (startWalk verify s) = true) :
    ∃ u, decSymbol verify s = .ok d.toNat u ∧
      EntryEmits (pkBytes (s.tbase.toNat + 2) d.toNat s) (startWalk verify s) u := by
  obtain ⟨u, hu, hentry, hidle⟩ := nodeLeafS_goes (s := startWalk verify s) hend h
  have hcount : u.walk.count = d.toNat := by
    obtain ⟨_, _, hcount, _⟩ := hentry.emits
    rw [hcount, pkBytes_length]
    exact Nat.zero_add _
  subst hd
  have hstep := (nodeStep_leafS (s := startWalk verify s) hb hlen).trans hu
  exact ⟨u, hcount ▸ decSymbol_of_first hstep hidle, hentry⟩

/-- A LEAF.B at TBASE is decoded once for each byte of the block, in write mode. -/
theorem symbolsLeadTo_leafB (hb : s.pkByte s.tbase.toNat = 0x00) (hlen : s.tbase.toNat + 1 < s.pkLen.toNat)
    (hd : s.pkByte (s.tbase.toNat + 1) = d) (hm : s.drem.toNat = m) (hroom : s.dptr.toNat + m ≤ 2 ^ 32 - 1) :
    ∃ t, SymbolsLeadTo false m s t ∧ t.drem = 0 ∧ t.rpos = s.rpos ∧ t.rbit = s.rbit ∧
      ∀ a, t.rawByte a =
        if s.dptr.toNat ≤ a ∧ a < s.dptr.toNat + m ∧ a < s.rawCap.toNat then d else s.rawByte a := by
  induction m generalizing s with
  | zero => exact ⟨s, rfl, by bv_omega, rfl, rfl, fun a => by rw [if_neg (by omega)]⟩
  | succ m ih =>
    have hne : s.drem ≠ 0 := by bv_omega
    have hmay : mayEmit [s.pkByte (s.tbase.toNat + 1)] (startWalk false s) = true :=
      mayEmit_singleton.mpr ⟨hne, by change s.dptr.toNat + 1 < 2 ^ 32; omega, nofun⟩
    obtain ⟨u, hu, hentry⟩ := decSymbol_leafB hb hlen hmay
    obtain ⟨hdptr, hdrem, _, _, hraw⟩ := hentry.emits
    rw [hd] at hraw
    have hdptr : u.dptr.toNat = s.dptr.toNat + 1 := hdptr
    have hdrem : u.drem.toNat + 1 = s.drem.toNat := hdrem
    have hframe := hentry.frame
    have hpk : u.pkByte = s.pkByte := (congrArg State.pkByte hframe :)
    have hbase : u.tbase = s.tbase := (congrArg State.tbase hframe :)
    have hpkLen : u.pkLen = s.pkLen := (congrArg State.pkLen hframe :)
    have hcap : u.rawCap = s.rawCap := (congrArg State.rawCap hframe :)
    obtain ⟨t, hsym, h0, hrpos, hrbit, hbytes⟩ := ih (s := u) (by rw [hpk, hbase, hb]) (by rw [hbase, hpkLen]; exact hlen)
      (by rw [hpk, hbase, hd]) (by omega) (by omega)
    refine ⟨t, ⟨hne, 1, u, hu, hsym⟩, h0, hrpos.trans (congrArg State.rpos hframe :),
      hrbit.trans (congrArg State.rbit hframe :), fun a => ?_⟩
    obtain ⟨hfirst, _⟩ := hraw
    change ∀ a, u.rawByte a = if s.dptr.toNat ≤ a ∧ a < s.dptr.toNat + 1 ∧ a < s.rawCap.toNat then
      [d].getD (a - s.dptr.toNat) 0 else s.rawByte a at hfirst
    rw [hbytes a, hfirst a, hdptr, hcap]
    by_cases ha : a = s.dptr.toNat
    · subst ha
      rw [if_neg (by omega), Nat.sub_self]
      exact if_congr (by omega) rfl rfl
    · rw [if_neg (c := s.dptr.toNat ≤ a ∧ a < s.dptr.toNat + 1 ∧ _) (by omega)]
      exact if_congr (by omega) rfl rfl

/-- Settles O58: the first node ends the symbol, and a leaf entry reads no bit. -/
theorem heightZeroTableReadsNoBit : Obligations.HeightZeroTableReadsNoBit := by
  refine ⟨fun s bytes ha hroom hcases hmay => ?_, fun s ha hmode hlen hb hroom => ?_⟩
  · obtain ⟨u, hu, hentry⟩ : ∃ u, decSymbol s.arg0Bit s = .ok bytes.length u ∧
        EntryEmits bytes (startWalk s.arg0Bit s) u := by
      obtain ⟨hb, hlen, rfl⟩ | ⟨hb, hlen, hend, rfl⟩ := hcases
      · exact decSymbol_leafB hb hlen hmay
      · rw [pkBytes_length]
        exact decSymbol_leafS hb hlen rfl hend hmay
    refine ⟨u, hentry.emits, execDecSym_completes ha hroom hu, (congrArg State.rpos hentry.frame :),
      (congrArg State.rbit hentry.frame :), hentry.tp.trans (by simp [startWalk])⟩
  · obtain ⟨t, hsym, h0, hrpos, hrbit, hbytes⟩ :=
      symbolsLeadTo_leafB (s := { s with drem := s.arg0 }) hb hlen rfl rfl hroom
    have hk : s.arg0.toNat < blockBound { s with drem := s.arg0 } := by
      simp only [blockBound]
      omega
    obtain ⟨hexec, hdptr⟩ := decBlockDecodesUntilDremZero.2 s t s.arg0.toNat ha hroom hk (hmode ▸ hsym) h0
    exact ⟨_, hexec, hrpos, hrbit, h0, rfl, hdptr, hbytes⟩

end Sys2Proof.Machine
end

section
/-! SUPPORT. How long a walk and a block can be that end (44_decode R224, log entry 10). `WalkEndsIn k` holds for every
`k` that is large enough, which refutes the first half of the obligation; with the number of nodes counted exactly
(`WalkTakes`) both halves hold. -/

namespace Sys2Proof.Machine

open Sys2Proof.Safety

variable {s t t' u v : State} {x : Unit} {j k m n p B : Nat} {verify : Bool}

/-! ### The obligation as stated -/

/-- PK holds a LEAF.B and nothing else, the block has one byte left. -/
def oneEntry : State := { State.reset with pk := ⟨[(0, 0x00), (1, 0x41)], []⟩, pkLen := 2, drem := 1 }

theorem oneEntry_ends : ∃ t, nodeStep (startWalk false oneEntry) = .ok () t ∧ t.walk.phase = .idle := by
  obtain ⟨t, ht, _, hidle⟩ :=
    nodeLeafB_goes (s := startWalk false oneEntry) (d := 0x41) (mayEmit_singleton.mpr ⟨by decide, by decide, nofun⟩)
  exact ⟨t, (nodeStep_leafB (s := startWalk false oneEntry) rfl (by decide)).trans ht, hidle⟩

/-- Refutes O57: once a node has ended the symbol, `WalkEndsIn` asks nothing of the count left over, so the walk over
`oneEntry`, of one node, "ends in" one more node than its bound. -/
theorem not_endingRunsStayWithinBounds : ¬ Obligations.EndingRunsStayWithinBounds := by
  unfold Obligations.EndingRunsStayWithinBounds
  rintro ⟨hwalks, _⟩
  obtain ⟨t, ht, hidle⟩ := oneEntry_ends
  have hle := hwalks (walkBound oneEntry + 1) false oneEntry t ⟨t, ht, .inl ⟨hidle, rfl⟩⟩
  omega

/-! ### Walks counted exactly -/

/-- The walk in state `s` ends in `t` after `k` nodes, no more and no fewer (44_decode R217). -/
inductive WalkTakes : Nat → State → State → Prop
  | last {s t : State} (h : nodeStep s = .ok () t) (hidle : t.walk.phase = .idle) : WalkTakes 1 s t
  | more {k : Nat} {s u t : State} (h : nodeStep s = .ok () u) (hphase : u.walk.phase ≠ .idle)
      (hrest : WalkTakes k u t) : WalkTakes (k + 1) s t

theorem walkEndsIn_iff : WalkEndsIn k s t ↔ ∃ j ≤ k, WalkTakes j s t := by
  constructor
  · intro h
    induction k generalizing s with
    | zero => exact h.elim
    | succ k ih =>
      obtain ⟨u, hu, ⟨hidle, rfl⟩ | ⟨hphase, hrest⟩⟩ := h
      · exact ⟨1, by omega, .last hu hidle⟩
      · obtain ⟨j, hj, htakes⟩ := ih hrest
        exact ⟨j + 1, by omega, .more hu hphase htakes⟩
  · rintro ⟨j, hj, h⟩
    induction h generalizing k with
    | last hu hidle =>
      obtain ⟨k, rfl⟩ : ∃ m, k = m + 1 := ⟨k - 1, by omega⟩
      exact ⟨_, hu, .inl ⟨hidle, rfl⟩⟩
    | more hu hphase _ ih =>
      obtain ⟨k, rfl⟩ : ∃ m, k = m + 1 := ⟨k - 1, by omega⟩
      exact ⟨_, hu, .inr ⟨hphase, ih (by omega)⟩⟩

/-- A walk ends after one number of nodes. -/
theorem WalkTakes.unique (h : WalkTakes k s t) (h' : WalkTakes j s t') : k = j := by
  induction h generalizing j with
  | last hu hidle =>
    cases h' with
    | last => rfl
    | more hu' hphase =>
      cases hu.symm.trans hu'
      exact absurd hidle hphase
  | more hu hphase _ ih =>
    cases h' with
    | last hu' hidle =>
      cases hu.symm.trans hu'
      exact absurd hidle hphase
    | more hu' _ hrest' =>
      cases hu.symm.trans hu'
      rw [ih hrest']

/-! ### What a walk does not depend on -/

theorem branch_tp {l r : Nat} (a : Word) (h : branch l r s = .ok x u) :
    branch l r { s with tp := a } = .ok () { u with tp := a } ∧ u.walk.phase = .descent := by
  unfold branch at h
  split at h
  · cases h
  · next hp =>
    cases h
    rw [branch, if_neg hp]
    unfold bitRead
    dsimp only
    split
    · exact ⟨rfl, rfl⟩
    · split <;> exact ⟨rfl, rfl⟩

/-- A node leaves TP alone or overwrites it, and reads it only to raise. -/
theorem nodeStep_tp (a : Word) (h : nodeStep s = .ok x u) :
    nodeStep { s with tp := a } = .ok () u ∨
      nodeStep { s with tp := a } = .ok () { u with tp := a } ∧ u.walk.phase = .descent := by
  obtain ⟨b, hb, hlen, htag, hnode⟩ := withNode_ok h
  rw [nodeStep_goes (s := { s with tp := a }) hb hlen htag]
  unfold nodeMeaning
  unfold caseNode at hnode ⊢
  split_ifs at hnode ⊢
  · exact .inl hnode
  · exact .inl hnode
  · exact .inl hnode
  · exact .inr (branch_tp a hnode)
  · exact .inr (branch_tp a hnode)

/-- A walk does not depend on TP: every walk ends with a leaf entry, which overwrites it. -/
theorem WalkTakes.withTp (h : WalkTakes k s t) (a : Word) : WalkTakes k { s with tp := a } t := by
  induction h with
  | last hu hidle =>
    rcases nodeStep_tp a hu with hu' | ⟨_, hdescent⟩
    · exact .last hu' hidle
    · cases hidle.symm.trans hdescent
  | more hu hphase hrest ih =>
    rcases nodeStep_tp a hu with hu' | ⟨hu', _⟩
    · exact .more hu' hphase hrest
    · exact .more hu' hphase ih

/-! ### The emission phase -/

/-- The walk of `s` at a leaf entry at `p`, the rest of the state as it is, but for TP. -/
def atEntry (p : Nat) (s : State) : State :=
  { s with tp := 0, walk := { s.walk with phase := .emission, pos := p } }

/-- Where the walk can jump: the addresses that an offset of 16 bits reaches from TBASE (30_encoding R97). -/
def entrySpan (s : State) : Finset Nat := Finset.Ico s.tbase.toNat (s.tbase.toNat + 65536)

theorem WalkTakes.ofEntry (h : WalkTakes k s t) (hp : s.walk.phase = .emission) :
    WalkTakes k (atEntry s.walk.pos s) t := by
  have heq : atEntry s.walk.pos s = { s with tp := 0 } := by rw [atEntry, ← hp]
  exact heq ▸ h.withTp 0

/-- A silent entry changes the position alone. -/
theorem LeafStep.atEntry (h : LeafStep 0 s u) (p : Nat) : atEntry p u = atEntry p s := by
  rw [h.silent rfl]
  rfl

theorem LeafStep.tbase (h : LeafStep m s u) : u.tbase = s.tbase := (congrArg State.tbase h.frame :)

theorem LeafStep.mem_entrySpan (h : LeafStep m s u) (hphase : u.walk.phase ≠ .idle) :
    u.walk.phase = .emission ∧ u.walk.pos ∈ entrySpan u := by
  obtain hidle | ⟨hemission, hlo, hhi⟩ := h.target
  · exact absurd hidle hphase
  · exact ⟨hemission, Finset.mem_Ico.mpr (h.tbase ▸ ⟨hlo, hhi⟩)⟩

/-- In the emission phase a step is a leaf entry. -/
theorem nodeStep_emission (h : nodeStep s = .ok x u) (hp : s.walk.phase = .emission) : ∃ m, LeafStep m s u := by
  obtain ⟨_, hbranch | hleaf⟩ := nodeStep_cases h
  · exact absurd hp hbranch.phase
  · exact hleaf

/-- Of the `k` entries from here on all but `B` stand at different addresses: from each the walk would end in `t`,
within `k` nodes. -/
def PassesEntries (k B : Nat) (s t : State) : Prop :=
  ∃ F ⊆ entrySpan s, k ≤ F.card + B ∧ ∀ p ∈ F, ∃ j ≤ k, WalkTakes j (atEntry p s) t

/-- The first of them is the entry that the walk stands at. -/
theorem passesEntries_first (h : WalkTakes k (atEntry s.walk.pos s) t) (hpos : s.walk.pos ∈ entrySpan s)
    (hk : k ≤ 1 + B) : PassesEntries k B s t := by
  refine ⟨{s.walk.pos}, Finset.singleton_subset_iff.mpr hpos, hk, fun p hp => ?_⟩
  rw [Finset.mem_singleton.mp hp]
  exact ⟨k, le_rfl, h⟩

/-- A silent entry before them adds its own address: from there the walk takes one more node than from any of them. -/
theorem PassesEntries.silent (h : PassesEntries k B u t) (hleaf : LeafStep 0 s u)
    (hself : WalkTakes (k + 1) (atEntry s.walk.pos s) t) (hpos : s.walk.pos ∈ entrySpan s) :
    PassesEntries (k + 1) B s t := by
  obtain ⟨F, hF, hcard, hends⟩ := h
  simp only [hleaf.atEntry] at hends
  have hspan : entrySpan u = entrySpan s := by rw [entrySpan, hleaf.tbase, entrySpan]
  have hnew : s.walk.pos ∉ F := fun hmem => by
    obtain ⟨j, hj, hends⟩ := hends _ hmem
    have := hends.unique hself
    omega
  refine ⟨insert s.walk.pos F, Finset.insert_subset hpos (hspan ▸ hF), ?_, fun p hp => ?_⟩
  · rw [Finset.card_insert_of_notMem hnew]
    omega
  · obtain rfl | hmem := Finset.mem_insert.mp hp
    · exact ⟨k + 1, le_rfl, hself⟩
    · obtain ⟨j, hj, hends⟩ := hends p hmem
      exact ⟨j, by omega, hends⟩

/-- From an entry on, a walk that ends passes a new address with every entry until it emits a byte, `B` being a bound
of what comes after that byte. -/
theorem WalkTakes.passesEntries (h : WalkTakes k s t) (hp : s.walk.phase = .emission)
    (hpos : s.walk.pos ∈ entrySpan s)
    (hB : ∀ j u, WalkTakes j u t → u.walk.phase = .emission → u.walk.pos ∈ entrySpan u →
      u.drem.toNat < s.drem.toNat → j ≤ B) : PassesEntries k B s t := by
  induction h with
  | last hu hidle => exact passesEntries_first ((WalkTakes.last hu hidle).ofEntry hp) hpos (by omega)
  | more hu hphase hrest ih =>
    have hself := (WalkTakes.more hu hphase hrest).ofEntry hp
    obtain ⟨m, hleaf⟩ := nodeStep_emission hu hp
    obtain ⟨hemission, htarget⟩ := hleaf.mem_entrySpan hphase
    have hdrem := hleaf.drem
    obtain rfl | hm := Nat.eq_zero_or_pos m
    · exact (ih hemission htarget fun j v hv hpv hposv hlt => hB j v hv hpv hposv (by omega)).silent hleaf hself hpos
    · have hk := hB _ _ hrest hemission htarget (by omega)
      exact passesEntries_first hself hpos (by omega)

/-- From an entry on, a walk that ends passes at most 65536 entries between two bytes. -/
theorem WalkTakes.emission_le (h : WalkTakes k s t) (hp : s.walk.phase = .emission) (hpos : s.walk.pos ∈ entrySpan s) :
    k ≤ 65536 * (s.drem.toNat + 1) := by
  induction hd : s.drem.toNat using Nat.strong_induction_on generalizing k s with
  | _ d ih =>
    obtain ⟨F, hF, hcard, _⟩ := h.passesEntries (B := 65536 * d) hp hpos fun j u hj hpu hposu hlt =>
      (ih _ (hd ▸ hlt) hj hpu hposu rfl).trans (Nat.mul_le_mul_left _ (hd ▸ hlt))
    have hspan : (entrySpan s).card = 65536 := by rw [entrySpan, Nat.card_Ico, Nat.add_sub_cancel_left]
    have := Finset.card_le_card hF
    omega

/-! ### The whole walk -/

/-- Each branch of the descent stands at a higher address, below PK_LEN. -/
theorem WalkTakes.descent_le (h : WalkTakes k s t) (hp : s.walk.phase ≠ .emission) :
    k ≤ s.pkLen.toNat - s.walk.pos + 65536 * (s.drem.toNat + 1) := by
  induction h with
  | last hu =>
    obtain ⟨hlt, _⟩ := nodeStep_cases hu
    omega
  | @more k s u t hu hphase hrest ih =>
    obtain ⟨hlt, hbranch | ⟨m, hleaf⟩⟩ := nodeStep_cases hu
    · have hframe := hbranch.frame
      rw [bitRead_frame] at hframe
      have hdescent : u.walk.phase = .descent := (congrArg (·.walk.phase) hframe :)
      have hpkLen : u.pkLen = s.pkLen := (congrArg State.pkLen hframe :)
      have hdrem : u.drem = s.drem := (congrArg State.drem hframe :)
      have hpos := hbranch.pos
      have hrest := ih (by rw [hdescent]; nofun)
      rw [hpkLen, hdrem] at hrest
      omega
    · obtain ⟨hemission, htarget⟩ := hleaf.mem_entrySpan hphase
      have hdrem := hleaf.drem
      have hrest := hrest.emission_le hemission htarget
      omega

/-- No walk that ends is cut off by the model's bound (log entry 10). -/
theorem WalkTakes.le_walkBound (h : WalkTakes k (startWalk verify s) t) : k ≤ walkBound s := by
  have hle : k ≤ s.pkLen.toNat - s.tbase.toNat + 65536 * (s.drem.toNat + 1) := h.descent_le nofun
  exact hle.trans (Nat.le_succ_of_le (Nat.add_le_add (Nat.sub_le ..) (Nat.mul_le_mul_right _ (by decide))))

/-- `dec_symbol` completes exactly when its walk ends (R217, R224). -/
theorem decSymbol_ok_iff_walkTakes :
    decSymbol verify s = .ok n t ↔ (∃ k, WalkTakes k (startWalk verify s) t) ∧ t.walk.count = n := by
  rw [decSymbol_ok]
  refine and_congr_left fun _ => ⟨?_, fun ⟨k, h⟩ => ⟨k, h.le_walkBound, walkEndsIn_iff.mpr ⟨k, le_rfl, h⟩⟩⟩
  rintro ⟨_, _, hends⟩
  obtain ⟨k, _, h⟩ := walkEndsIn_iff.mp hends
  exact ⟨k, h⟩

/-! ### Blocks -/

/-- The bytes still to come and the bits still to be read. -/
def progressLeft (s : State) : Nat := s.drem.toNat + (8 * s.pkLen.toNat - s.readPos)

/-- From `s` to `u` a byte was emitted or a bit of PK was read, or nothing but TP and the walk changed. -/
def Progresses (s u : State) : Prop := progressLeft u < progressLeft s ∨ u = { s with tp := u.tp, walk := u.walk }

theorem Progresses.trans (h : Progresses s t) (h' : Progresses t u) : Progresses s u := by
  have heq {s t : State} (h : t = { s with tp := t.tp, walk := t.walk }) : progressLeft t = progressLeft s :=
    (congrArg progressLeft h :)
  rcases h with h | h <;> rcases h' with h' | h'
  · exact .inl (h'.trans h)
  · exact .inl ((heq h').trans_lt h)
  · exact .inl (h'.trans_eq (heq h))
  · exact .inr (by rw [h', h])

/-- A bit read below PK_LEN moves the reader; from there on a read changes nothing (40_bitio R135). -/
theorem bitRead_progresses : Progresses s (bitRead s).2 := by
  by_cases h : s.rpos.toNat < s.pkLen.toNat
  · have hlt : s.readPos < 8 * s.pkLen.toNat := by
      have := s.rbit.isLt
      unfold State.readPos
      omega
    have hframe := bitRead_frame s
    have hpkLen : (bitRead s).2.pkLen = s.pkLen := (congrArg State.pkLen hframe :)
    have hdrem : (bitRead s).2.drem = s.drem := (congrArg State.drem hframe :)
    refine .inl ?_
    rw [progressLeft, progressLeft, (bitRead_pkBit hlt).2, hpkLen, hdrem]
    omega
  · rw [bitRead_beyond (by omega)]
    exact .inr rfl

theorem nodeStep_progresses {s u : State} (h : nodeStep s = .ok () u) : Progresses s u := by
  obtain ⟨_, hbranch | ⟨m, hleaf⟩⟩ := nodeStep_cases h
  · rw [hbranch.frame]
    exact bitRead_progresses.trans (.inr rfl)
  · have hdrem := hleaf.drem
    obtain rfl | hm := Nat.eq_zero_or_pos m
    · exact .inr (by rw [hleaf.silent rfl]; rfl)
    · have hbits : 8 * u.pkLen.toNat - u.readPos = 8 * s.pkLen.toNat - s.readPos :=
        (congrArg (fun s => 8 * s.pkLen.toNat - s.readPos) hleaf.frame :)
      refine .inl ?_
      unfold progressLeft
      omega

theorem decSymbol_progresses (h : decSymbol verify s = .ok n u) : Progresses s u := by
  obtain ⟨⟨k, _, hends⟩, _⟩ := decSymbol_ok.mp h
  have hwalk := walkEndsIn_lift (R := Progresses) Progresses.trans nodeStep_progresses hends
  exact Progresses.trans (.inr rfl : Progresses s (startWalk verify s)) hwalk

/-- A symbol depends on nothing that TP and the last walk hold. -/
theorem decSymbol_withTpWalk (a : Word) (w : Walk) (h : decSymbol verify s = .ok n t) :
    decSymbol verify { s with tp := a, walk := w } = .ok n t := by
  obtain ⟨⟨k, htakes⟩, hn⟩ := decSymbol_ok_iff_walkTakes.mp h
  exact decSymbol_ok_iff_walkTakes.mpr ⟨⟨k, htakes.withTp a⟩, hn⟩

/-- A symbol that leads back to where it began does so every time. -/
theorem symbolsLeadTo_of_stuck (hu : decSymbol verify u = .ok n u) (h : SymbolsLeadTo verify k u t) : t = u := by
  induction k with
  | zero => exact h.symm
  | succ k ih =>
    obtain ⟨_, m, v, hv, hrest⟩ := h
    cases hu.symm.trans hv
    exact ih hrest

/-- Each symbol of a block that ends emits a byte or reads a bit of PK. -/
theorem symbolsLeadTo_le (h : SymbolsLeadTo verify k s t) (h0 : t.drem = 0) : k ≤ progressLeft s := by
  induction k generalizing s with
  | zero => exact Nat.zero_le _
  | succ k ih =>
    obtain ⟨hd, n, u, hu, hrest⟩ := h
    rcases decSymbol_progresses hu with hlt | heq
    · have := ih hrest
      omega
    · have hstuck : decSymbol verify u = .ok n u := by
        have := decSymbol_withTpWalk u.tp u.walk hu
        rwa [← heq] at this
      rw [symbolsLeadTo_of_stuck hstuck hrest] at h0
      have hdrem : u.drem = s.drem := (congrArg State.drem heq :)
      exact absurd (hdrem ▸ h0) hd

/-- No block that ends is cut off by the model's bound (log entry 10). -/
theorem symbolsLeadTo_lt_blockBound (h : SymbolsLeadTo verify k s t) (h0 : t.drem = 0) : k < blockBound s := by
  have hle := symbolsLeadTo_le h h0
  unfold progressLeft at hle
  unfold blockBound
  omega

/-- With the nodes of a walk counted exactly, the bounds of the model are what O57 says of them: neither a walk nor a
block that ends is cut off (R224, log entry 10). -/
theorem exactRuns_within_bounds :
    (∀ k verify s t, WalkTakes k (startWalk verify s) t → k ≤ walkBound s) ∧
      ∀ k verify s t, SymbolsLeadTo verify k s t → t.drem = 0 → k < blockBound s :=
  ⟨fun _ _ _ _ h => h.le_walkBound, fun _ _ _ _ h h0 => symbolsLeadTo_lt_blockBound h h0⟩

end Sys2Proof.Machine
end

section
/-! SUPPORT. The finished table under the decode walk (44_decode R217, R225): the descent along a code to its leaf
entry, the emission of a symbol through its suffix chain, what a completed SER_BUILD has left in PK, and the obligation
that ties them together. -/

namespace Sys2Proof.Machine

open Sys2Proof.Safety

variable {s t u v w : State} {x : Unit} {a k n p id : Nat} {b : Byte} {bs xs ys : List Byte} {tr : HTree}
  {tb : Option HTree} {off : Nat → Nat} {code bits : List Bool} {q : Placement} {ps : List Placement} {f : Fixup}

/-! ### Text in PK -/

/-- PK holds the bytes `bs` from `a` on, all of them below PK_LEN. -/
structure HoldsText (a : Nat) (bs : List Byte) (s : State) : Prop where
  bytes : pkBytes a bs.length s = bs
  below : a + bs.length ≤ s.pkLen.toNat

theorem pkBytes_add (a m n : Nat) (s : State) : pkBytes a (m + n) s = pkBytes a m s ++ pkBytes (a + m) n s := by
  simp [pkBytes, List.range_add, Function.comp_def, Nat.add_assoc]

/-- Text in two pieces stands as the pieces do, one after the other. -/
theorem holdsText_append (h : HoldsText a (xs ++ ys) s) : HoldsText a xs s ∧ HoldsText (a + xs.length) ys s := by
  obtain ⟨hbytes, hbelow⟩ := h
  rw [List.length_append] at hbytes hbelow
  rw [pkBytes_add] at hbytes
  obtain ⟨hxs, hys⟩ := List.append_inj hbytes (pkBytes_length ..)
  exact ⟨⟨hxs, by omega⟩, ⟨hys, by omega⟩⟩

theorem holdsText_cons (h : HoldsText a (b :: bs) s) : s.pkByte a = b ∧ HoldsText (a + 1) bs s := by
  obtain ⟨hb, hbs⟩ := holdsText_append (xs := [b]) h
  exact ⟨(List.cons.inj hb.bytes).1, hbs⟩

theorem HoldsText.congr (h : HoldsText a bs s) (hpk : t.pk = s.pk) (hlen : t.pkLen = s.pkLen) : HoldsText a bs t := by
  have hbyte : t.pkByte = s.pkByte := by funext i; rw [State.pkByte, hpk, State.pkByte]
  exact ⟨by rw [pkBytes, hbyte]; exact h.bytes, hlen ▸ h.below⟩

/-- Bytes stored below PK_CAP stand in PK (20_memory R65). -/
theorem holdsText_of_storesBytes (h : StoresBytes a bs s t) (hcap : a + bs.length ≤ s.pkCap.toNat) (hpk : u.pk = t.pk)
    (hlen : a + bs.length ≤ u.pkLen.toNat) : HoldsText a bs u := by
  obtain ⟨hbytes, _⟩ := h
  have hbyte : u.pkByte = t.pkByte := by funext i; rw [State.pkByte, hpk, State.pkByte]
  refine ⟨List.ext_getElem (pkBytes_length ..) fun i _ hi => ?_, hlen⟩
  have hin : a ≤ a + i ∧ a + i < a + bs.length ∧ a + i < s.pkCap.toNat := by omega
  simp [pkBytes, hbyte, hbytes, hi, hin.2.2]

/-! ### The descent -/

/-- The state after `n` branches of the descent, the last one to `p`. -/
def descended (n p : Nat) (s : State) : State := { skipBits n s with walk := { s.walk with pos := p } }

theorem descended_frame (n p : Nat) (s : State) :
    descended n p s = { s with rpos := (skipBits n s).rpos, rbit := (skipBits n s).rbit,
                               walk := { s.walk with pos := p } } := by
  rw [descended, skipBits_frame]

theorem bitRead_walk (s : State) (w : Walk) :
    bitRead { s with walk := w } = ((bitRead s).1, { (bitRead s).2 with walk := w }) := by
  unfold bitRead
  dsimp only
  split
  · rfl
  · split <;> rfl

theorem skipBits_walk (n : Nat) (s : State) (w : Walk) :
    skipBits n { s with walk := w } = { skipBits n s with walk := w } := by
  induction n generalizing s with
  | zero => rfl
  | succ n ih => rw [skipBits, bitRead_walk, ih, skipBits]

theorem readBits_walk (n : Nat) (s : State) (w : Walk) : readBits n { s with walk := w } = readBits n s := by
  induction n generalizing s with
  | zero => rfl
  | succ n ih => rw [readBits, bitRead_walk, ih, readBits]

theorem descended_descended (n p p' : Nat) (s : State) :
    descended n p (descended 1 p' s) = descended (n + 1) p s := by
  simp only [descended, skipBits_walk]
  rfl

theorem branch_descended {l r : Nat} (hp : s.walk.phase = .descent) :
    branch l r s = .ok () (descended 1 (if (bitRead s).1 then r else l) s) := by
  rw [branch_descent hp, descended, skipBits, skipBits, bitRead_frame]

theorem nodeMeaning_br (wf : (Instr.br b).wellFormed = true) (b1 b2 : Byte) : nodeMeaning b b1 b2 = nodeBr b := by
  obtain ⟨hlo, hhi⟩ : 3 ≤ b.toNat ∧ b.toNat ≤ 254 := of_decide_eq_true wf
  rw [nodeMeaning, caseNode, if_neg (by bv_omega), if_neg (by bv_omega), if_neg (by bv_omega), if_neg (by bv_omega)]

theorem nodeStep_br (wf : (Instr.br b).wellFormed = true) (hp : s.walk.phase = .descent)
    (h : HoldsText s.walk.pos [b] s) : nodeStep s = nodeBr b s := by
  obtain ⟨hb, _⟩ := holdsText_cons h
  rw [nodeStep_goes hb ((nodeFixedLen_br wf).symm ▸ h.below) (by rw [hp]; nofun), nodeMeaning_br wf]

theorem nodeStep_brl {lo hi : Byte} (hp : s.walk.phase = .descent) (h : HoldsText s.walk.pos [0xFF, lo, hi] s) :
    nodeStep s = nodeBrl lo hi s := by
  obtain ⟨hb, hrest⟩ := holdsText_cons h
  obtain ⟨hlo, hrest⟩ := holdsText_cons hrest
  obtain ⟨hhi, _⟩ := holdsText_cons hrest
  rw [nodeStep_goes hb h.below (by rw [hp]; nofun), ← hlo, ← hhi]
  rfl

/-- The skip field of a node in the descent: left to the byte after it, right over the `l` bytes of the left subtree
(R211, R212, 43_serializer R189). -/
theorem nodeStep_skipField {l : Nat} (hp : s.walk.phase = .descent) (hlo : 2 ≤ l) (hhi : l + 1 ≤ 65535)
    (h : HoldsText s.walk.pos (skipField (l + 1)) s) :
    nodeStep s = .ok () (descended 1
      (s.walk.pos + (skipField (l + 1)).length + if (bitRead s).1 then l else 0) s) := by
  unfold skipField at h ⊢
  by_cases hshort : l + 1 ≤ 254
  · rw [if_pos hshort] at h ⊢
    have hval : (BitVec.ofNat 8 (l + 1)).toNat = l + 1 := by rw [BitVec.toNat_ofNat]; omega
    rw [nodeStep_br (decide_eq_true (by omega)) hp h, nodeBr, branch_descended hp, hval, List.length_singleton]
    congr 2
    split <;> omega
  · rw [if_neg hshort] at h ⊢
    rw [nodeStep_brl hp h, nodeBrl, branch_descended hp, leWord_ofNat hhi]
    simp only [List.length_cons, List.length_nil]
    congr 2
    split <;> omega

/-- The bytes `text` at `p` lead the descent along `bits` to `target`: a walk that ends from there ends from `p`, with
one node more for each bit. -/
def Descends (text : List Byte) (p : Nat) (bits : List Bool) (target : Nat) : Prop :=
  ∀ (s t : State) (k : Nat), s.walk.phase = .descent → s.walk.pos = p → HoldsText p text s →
    readBits bits.length s = bits → WalkTakes k (descended bits.length target s) t →
    WalkTakes (k + bits.length) s t

/-- A branch before them: the subtree that the bit leads to is reached in one node. -/
theorem Descends.branch {l target : Nat} {c : Bool} {text : List Byte} (hlo : 2 ≤ l) (hhi : l + 1 ≤ 65535)
    (hchild : ∀ s, HoldsText p (skipField (l + 1) ++ text) s →
      HoldsText (p + (skipField (l + 1)).length + if c then l else 0) xs s)
    (h : Descends xs (p + (skipField (l + 1)).length + if c then l else 0) bits target) :
    Descends (skipField (l + 1) ++ text) p (c :: bits) target := by
  rintro s t k hphase rfl htext hbits hend
  obtain ⟨hbit, hrest⟩ := List.cons.inj hbits
  have hstep := nodeStep_skipField hphase hlo hhi (holdsText_append htext).1
  rw [hbit] at hstep
  refine .more hstep (by rw [descended, hphase]; nofun) (h _ t k hphase rfl ?_ ?_ ?_)
  · exact (hchild s htext).congr (congrArg State.pk (bitRead_frame s) :) (congrArg State.pkLen (bitRead_frame s) :)
  · rw [descended, readBits_walk]
    exact hrest
  · rw [descended_descended]
    exact hend

theorem two_le_textLength (s : State) (tr : HTree) : 2 ≤ textLength s tr := by
  induction tr with
  | leaf id c =>
    rw [textLength, treeText, leafText]
    split_ifs <;> simp
  | node a b iha ihb =>
    rw [textLength_node]
    omega

/-- Each code leads from the start of the text to the entry of its symbol (43_serializer R188). -/
theorem Emittable.descends (h : Emittable u tr) (base : Nat) (hq : q ∈ placements u p code tr) :
    ∃ bits, q.code = code ++ bits ∧ Descends (treeText u off tr) (base + p) bits (base + q.offset) := by
  induction h generalizing p code with
  | leaf =>
    rw [List.mem_singleton.mp hq]
    refine ⟨[], (List.append_nil _).symm, ?_⟩
    rintro s t k _ hpos _ _ hend
    rw [← hpos] at hend
    exact hend
  | @node a b _ _ hskip ihl ihr =>
    have hlo := two_le_textLength u (children u a b).1
    rw [treeText_node, List.append_assoc]
    rw [placements_node, List.mem_append] at hq
    obtain hq | hq := hq
    · obtain ⟨bits, hcode, hbits⟩ := ihl hq
      refine ⟨false :: bits, by rw [hcode, List.append_assoc]; rfl,
        .branch (xs := treeText u off (children u a b).1) hlo hskip (fun s hs => ?_) ?_⟩
      · exact (holdsText_append (holdsText_append hs).2).1
      · rw [if_neg Bool.false_ne_true, Nat.add_zero, Nat.add_assoc]
        exact hbits
    · obtain ⟨bits, hcode, hbits⟩ := ihr hq
      refine ⟨true :: bits, by rw [hcode, List.append_assoc]; rfl,
        .branch (xs := treeText u off (children u a b).2) hlo hskip (fun s hs => ?_) ?_⟩
      · have := (holdsText_append (holdsText_append hs).2).2
        rwa [treeText_length] at this
      · rw [Nat.add_assoc, Nat.add_assoc, ← Nat.add_assoc p]
        exact hbits

/-- Where an entry is placed, its own text stands. -/
theorem Emittable.holdsLeaf (h : Emittable u tr) (base : Nat) (hq : q ∈ placements u p code tr)
    (hs : HoldsText (base + p) (treeText u off tr) s) : HoldsText (base + q.offset) (leafText u off q.sym) s := by
  induction h generalizing p code with
  | leaf =>
    rw [List.mem_singleton.mp hq]
    exact hs
  | node _ _ _ ihl ihr =>
    rw [treeText_node] at hs
    obtain ⟨hskipl, hr⟩ := holdsText_append hs
    obtain ⟨_, hl⟩ := holdsText_append hskipl
    rw [placements_node, List.mem_append] at hq
    obtain hq | hq := hq
    · exact ihl hq (by rwa [← Nat.add_assoc])
    · rw [List.length_append, treeText_length, ← Nat.add_assoc] at hr
      exact ihr hq (by rwa [← Nat.add_assoc, ← Nat.add_assoc])

/-! ### The emission of a symbol -/

section Entries

variable {d : Byte} {o : Nat}

theorem entryB_step (h : HoldsText s.walk.pos [0x00, d] s) (hmay : mayEmit [d] s = true) :
    ∃ t, nodeStep s = .ok () t ∧ EntryEmits [d] s t ∧ t.walk.phase = .idle := by
  obtain ⟨hb, hrest⟩ := holdsText_cons h
  obtain ⟨hd, _⟩ := holdsText_cons hrest
  obtain ⟨t, ht, hentry⟩ := nodeLeafB_goes hmay
  exact ⟨t, by rw [nodeStep_leafB hb h.below, hd, ht], hentry⟩

theorem entryS_step (h : HoldsText s.walk.pos ([0x01, d] ++ bs) s) (hd : bs.length = d.toNat)
    (hmay : mayEmit bs s = true) : ∃ t, nodeStep s = .ok () t ∧ EntryEmits bs s t ∧ t.walk.phase = .idle := by
  obtain ⟨htag, hstring⟩ := holdsText_append h
  obtain ⟨hb, hrest⟩ := holdsText_cons htag
  obtain ⟨hn, _⟩ := holdsText_cons hrest
  obtain ⟨hbytes, hbelow⟩ := hstring
  rw [hd] at hbytes hbelow
  obtain ⟨t, ht, hentry⟩ := nodeLeafS_goes (n := d) hbelow (hbytes.symm ▸ hmay)
  rw [show pkBytes (s.walk.pos + 2) d.toNat s = bs from hbytes] at hentry
  exact ⟨t, by rw [nodeStep_leafS hb htag.below, hn, ht], hentry⟩

theorem entryX_step (h : HoldsText s.walk.pos ([0x02, d] ++ bs ++ offsetField o) s) (hd : bs.length = d.toNat)
    (ho : o ≤ 65535) (hmay : mayEmit bs s = true) :
    ∃ t, nodeStep s = .ok () t ∧ EntryEmits bs s t ∧ t.walk.phase = .emission ∧
      t.walk.pos = s.tbase.toNat + o := by
  obtain ⟨hown, hfield⟩ := holdsText_append h
  obtain ⟨htag, hstring⟩ := holdsText_append hown
  obtain ⟨hb, hrest⟩ := holdsText_cons htag
  obtain ⟨hn, _⟩ := holdsText_cons hrest
  have hlen : s.walk.pos + ([0x02, d] ++ bs).length = s.walk.pos + 2 + d.toNat := by
    rw [List.length_append, hd, Nat.add_assoc]
    rfl
  rw [hlen] at hfield
  obtain ⟨hlow, hhigh⟩ := holdsText_cons hfield
  obtain ⟨hhigh, _⟩ := holdsText_cons hhigh
  have hbytes := hstring.bytes
  rw [hd] at hbytes
  have hbelow : s.walk.pos + 2 + d.toNat + 2 ≤ s.pkLen.toNat := hfield.below
  obtain ⟨t, ht, hentry, hphase, hpos⟩ := nodeLeafX_goes (n := d) (s := s) (by omega) (hbytes.symm ▸ hmay)
  rw [show pkBytes (s.walk.pos + 2) d.toNat s = bs from hbytes] at hentry
  refine ⟨t, by rw [nodeStep_leafX hb htag.below, hn, ht], hentry, hphase, ?_⟩
  rw [hpos, hlow, show s.walk.pos + 3 + d.toNat = s.walk.pos + 2 + d.toNat + 1 by omega, hhigh, leWord_ofNat ho]

end Entries

theorem leafText_one (h : u.symLen id = 1) : leafText u off id = [0x00, u.symByte id 0] := by
  simp [leafText, sharesSuffix, h]

theorem leafText_string (h : u.symLen id ≠ 1) (hs : sharesSuffix u id = false) :
    leafText u off id = [0x01, BitVec.ofNat 8 (u.symLen id)] ++ u.symBytes id := by
  rw [leafText, if_neg (by rw [hs]; exact Bool.false_ne_true), if_neg h]

/-- Under TBASE, PK holds the entry of every symbol visited in `s` at its offset, and every offset that an entry refers
to fits 16 bits (43_serializer R189, R191). -/
structure HoldsEntries (s : State) (off : Nat → Nat) (w : State) : Prop where
  entry : ∀ id, s.visited id = true → HoldsText (w.tbase.toNat + off id) (leafText (writeSfx s) off id) w
  reach : ∀ id, s.visited id = true → sharesSuffix (writeSfx s) id = true →
    off ((writeSfx s).sfxOf id).toNat ≤ 65535

theorem HoldsEntries.congr (h : HoldsEntries s off w) (hpk : t.pk = w.pk) (hlen : t.pkLen = w.pkLen)
    (hbase : t.tbase = w.tbase) : HoldsEntries s off t :=
  ⟨fun id hid => hbase ▸ (h.entry id hid).congr hpk hlen, h.reach⟩

/-- A length of bytes of a symbol fits the length byte of its entry (30_encoding R94, R96). -/
theorem ofNat_symLen (s : State) (id : Nat) : (BitVec.ofNat 8 (s.symLen id)).toNat = s.symLen id := by
  rw [BitVec.toNat_ofNat, Nat.mod_eq_of_lt (Nat.lt_succ_of_le (symLen_le s id))]

theorem ownBytes_length (s : State) (id : Nat) :
    ((s.symBytes id).take (ownLength s id)).length = (BitVec.ofNat 8 (ownLength s id)).toNat := by
  have hle : ownLength s id ≤ s.symLen id := Nat.sub_le ..
  have hlen := symLen_le s id
  rw [List.length_take, symBytes_length, BitVec.toNat_ofNat]
  omega

/-- From its entry on, a symbol is emitted through its chain of suffixes, whose entries get shorter (R215,
43_serializer R194); no bit is read. -/
theorem HoldsEntries.emits (h : HoldsEntries s off w) (hid : s.visited id = true)
    (hpos : w.walk.pos = w.tbase.toNat + off id) (hmay : mayEmit (s.symBytes id) w = true) :
    ∃ k v, WalkTakes k w v ∧ EmitsBytes (s.symBytes id) w v ∧ v.rpos = w.rpos ∧ v.rbit = w.rbit := by
  induction hl : s.symLen id using Nat.strong_induction_on generalizing id w with
  | _ l ih =>
    have htext := h.entry id hid
    rw [← hpos] at htext
    cases hs : sharesSuffix (writeSfx s) id with
    | true =>
      obtain ⟨_, hnone⟩ := of_decide_eq_true hs
      obtain ⟨⟨_, _, _, hshorter, _, htail⟩, hvisited, _⟩ := writeSfx_link hid hnone
      have hown : ownLength (writeSfx s) id = s.symLen id - s.symLen ((writeSfx s).sfxOf id).toNat := rfl
      have hsplit : s.symBytes id = (s.symBytes id).take (ownLength (writeSfx s) id) ++
          s.symBytes ((writeSfx s).sfxOf id).toNat := by rw [htail, hown, List.take_append_drop]
      rw [hsplit] at hmay ⊢
      obtain ⟨hmayOwn, hmayTail⟩ := mayEmit_append hmay
      rw [leafText_shares hs] at htext
      obtain ⟨v, hv, hentry, hphase, hvpos⟩ := entryX_step htext
        (ownBytes_length (writeSfx s) id) (h.reach id hid hs) hmayOwn
      have hframe := hentry.frame
      have hbase : v.tbase = w.tbase := (congrArg State.tbase hframe :)
      have hcap : v.rawCap = w.rawCap := (congrArg State.rawCap hframe :)
      obtain ⟨k, z, hz, hemits, hrpos, hrbit⟩ := ih _ (hl ▸ hshorter)
        (h.congr (congrArg State.pk hframe :) (congrArg State.pkLen hframe :) hbase) hvisited (hbase ▸ hvpos)
        (hmayTail v hentry.emits hcap) rfl
      exact ⟨k + 1, z, .more hv (by rw [hphase]; nofun) hz, emitsBytes_append hentry.emits hemits hcap,
        hrpos.trans (congrArg State.rpos hframe :), hrbit.trans (congrArg State.rbit hframe :)⟩
    | false =>
      obtain ⟨v, hv, hentry, hidle⟩ :
          ∃ v, nodeStep w = .ok () v ∧ EntryEmits (s.symBytes id) w v ∧ v.walk.phase = .idle := by
        by_cases hone : (writeSfx s).symLen id = 1
        · have hbytes : s.symBytes id = [(writeSfx s).symByte id 0] := by
            rw [State.symBytes, show s.symLen id = 1 from hone]
            rfl
          rw [hbytes] at hmay ⊢
          exact entryB_step (leafText_one hone ▸ htext) hmay
        · rw [leafText_string hone hs] at htext
          exact entryS_step htext ((symBytes_length s id).trans (ofNat_symLen s id).symm) hmay
      exact ⟨1, v, .last hv hidle, hentry.emits, (congrArg State.rpos hentry.frame :),
        (congrArg State.rbit hentry.frame :)⟩

/-! ### What a completed SER_BUILD has left -/

theorem resolveFixups_reach (h : resolveFixups k n s = .ok x t) {i : Nat} (hi : i < n)
    (hf : s.fix.find (k + i) = some f) : (s.soffOf f.target).toNat ≤ 65535 := by
  induction n generalizing k i s with
  | zero => exact absurd hi (Nat.not_lt_zero i)
  | succ n ih =>
    unfold resolveFixups at h
    split at h
    · cases h
    · next g hg =>
      dsimp only at h
      split at h
      · cases h
      · next hle =>
        cases i with
        | zero =>
          cases hg.symm.trans hf
          exact Nat.not_lt.mp hle
        | succ i =>
          have := ih h (i := i) (by omega) (by rw [pkWrite_frame, pkWrite_frame, ← hf, Nat.add_right_comm]; rfl)
          rw [pkWrite_frame, pkWrite_frame] at this
          exact this

/-- Pass 1 that goes through has kept WPTR within 32 bits (40_bitio R130). -/
theorem emitTable_room (h : ∀ tr ∈ tb, Emittable u tr) (hs : tablePart s = tablePart u)
    (he : emitTable tb s = .ok x v) : s.wptr.toNat + (tableText u (fun _ => 0) tb).length ≤ 2 ^ 32 - 1 := by
  have hptr : v.wptr.toNat = s.wptr.toNat + (tableText u (fun _ => 0) tb).length := by
    cases tb with
    | none => cases he; rfl
    | some tr => exact ((h tr rfl).appendsText hs he).wptr
  have := v.wptr.isLt
  omega

/-- SER_BUILD's own part completes only when the table fits below the writer's ceiling and the offsets that fixups write
fit 16 bits (43_serializer R190, R191). -/
theorem buildTable_completed (hs : tablePart s = tablePart u) (h : ∀ tr ∈ tb, Emittable u tr)
    (hd : ((tablePlacements u tb).map (·.sym)).Nodup) (hcount : (tablePlacements u tb).length ≤ 65536)
    (hb : buildTable tb n s = .ok x t) :
    u.tbase.toNat + (tableText u (fun _ => 0) tb).length ≤ 2 ^ 32 - 1 ∧
      ∀ f q, f ∈ tableFixups u (tablePlacements u tb) → q ∈ tablePlacements u tb → q.sym = f.target →
        q.offset ≤ 65535 := by
  have hbase := tbase_congr hs
  obtain ⟨_, v, hv, hb⟩ := Res.bind_eq_ok.mp hb
  have hroom := emitTable_room h (s := { s with wptr := s.tbase, wacc := 0, wcnt := 0, nfix := 0 }) hs hv
  have hroom : u.tbase.toNat + (tableText u (fun _ => 0) tb).length ≤ 2 ^ 32 - 1 := hbase ▸ hroom
  obtain ⟨v', hv', _, hrec⟩ := emitTable_ok h (s := { s with wptr := s.tbase, wacc := 0, wcnt := 0, nfix := 0 }) hs
    hbase hroom
  cases hv.symm.trans hv'
  have hfs : (tableFixups u (tablePlacements u tb)).length ≤ (tablePlacements u tb).length := by
    rw [tableFixups, List.length_map]
    exact List.length_filter_le ..
  obtain ⟨hnfix, hfix⟩ := hrec.fixups_found rfl (by omega)
  refine ⟨hroom, fun f q hf hq hsym => ?_⟩
  split at hb
  · cases hb
  · obtain ⟨_, w, hw, _⟩ := Res.bind_eq_ok.mp hb
    obtain ⟨i, hi⟩ := List.mem_iff_getElem?.mp hf
    have hlt : i < v.nfix.toNat := hnfix ▸ (List.getElem?_eq_some_iff.mp hi).1
    have hle := resolveFixups_reach hw hlt (by rw [Nat.zero_add]; exact hfix i f hi)
    have hoff := (hrec.placed h (off := fun _ => 0) (by omega) hd hcount hq).1
    rw [← hoff, hsym]
    exact hle

/-- What a SER_BUILD that completes over a tree of the visited symbols leaves (R190). -/
structure Completed (s : State) (tb : Option HTree) (n : Nat) (t : State) : Prop where
  emittable : ∀ tr ∈ tb, Emittable (writeSfx s) tr
  length : ∀ off, (tableText (writeSfx s) off tb).length = n
  room : s.tbase.toNat + n ≤ 2 ^ 32 - 1
  syms : ((tablePlacements (writeSfx s) tb).map (·.sym)).Perm s.visitedIds
  reach : ∀ f q, f ∈ tableFixups (writeSfx s) (tablePlacements (writeSfx s) tb) →
    q ∈ tablePlacements (writeSfx s) tb → q.sym = f.target → q.offset ≤ 65535
  built : Built (writeSfx s) tb n (writeSfx (clearTable s)) t

theorem execSerBuild_completed (ha : s.accepts false = true) (hv : s.vHuf = true) (htree : s.tree = some tb)
    (hperm : (tableSyms tb).Perm s.visitedIds) (h : execSerBuild s = .next t) (he : t.err = 0) :
    ∃ n, Completed s tb n t := by
  have hb : measured buildTable (clearTable s) = .ok () t := (if_pos hv).symm.trans (command_completed h he)
  obtain ⟨_, hw, hsfx, _⟩ := Res.bind_eq_ok.mp hb
  obtain ⟨hsym, _⟩ := sfxAll_ok_haveBytes hsfx
  obtain ⟨hbytes, tr, n, htr, hsize, hbuild⟩ := measured_completed hb
  cases htree.symm.trans htr
  have hsize : tableSize (writeSfx s) tb = .ok n := (tableSize_congr (writeSfx_clearTable s) tb).symm.trans hsize
  obtain ⟨hemit, hlen⟩ := writeSfx_emittable (fun _ => 0) hperm hsize
  have hps := (tablePlacements_syms hemit).trans hperm
  have hcount : (tablePlacements (writeSfx s) tb).length ≤ 65536 := by
    rw [tablePlacements_length hemit, hperm.length_eq]
    exact (visitedIds_length_le s).trans hsym
  obtain ⟨hroom, hreach⟩ := buildTable_completed (writeSfx_clearTable s) hemit
    (hps.nodup_iff.mpr (visitedIds_nodup s)) hcount hbuild
  have hroom : s.tbase.toNat + n ≤ 2 ^ 32 - 1 := hlen ▸ hroom
  obtain ⟨t', ht', hbuilt⟩ := execSerBuild_builds ha hv hsym hbytes htree hperm hsize hroom hreach
  cases h.symm.trans ht'
  exact ⟨n, hemit, fun off => (writeSfx_emittable off hperm hsize).2, hroom, hps, hreach, hbuilt⟩

/-- The entry of each visited symbol is placed at the offset that SOFF records. -/
theorem Completed.placed (h : Completed s tb n t) (hid : s.visited id = true) :
    ∃ q ∈ tablePlacements (writeSfx s) tb, q.sym = id ∧ (t.soffOf id).toNat = q.offset ∧ t.codeOf id = q.code := by
  obtain ⟨q, hq, rfl⟩ := List.mem_map.mp (h.syms.mem_iff.mpr (mem_visitedIds.mpr hid))
  exact ⟨q, hq, rfl, h.built.placed q hq⟩

theorem Completed.tlen (h : Completed s tb n t) : t.tlen.toNat = n := by
  have htlen : t.tlen = BitVec.ofNat 32 n := (congrArg State.tlen h.built.frame :)
  have := h.room
  rw [htlen, BitVec.toNat_ofNat, Nat.mod_eq_of_lt (by omega)]

/-- With no byte dropped, PK holds the finished table. -/
theorem Completed.holdsTable (h : Completed s tb n t) (hcap : s.tbase.toNat + n ≤ s.pkCap.toNat) (hpk : u.pk = t.pk)
    (hlen : s.tbase.toNat + n ≤ u.pkLen.toNat) :
    HoldsText s.tbase.toNat (tableText (writeSfx s) (fun id => (t.soffOf id).toNat) tb) u :=
  holdsText_of_storesBytes h.built.stores ((h.length _).symm ▸ hcap) hpk ((h.length _).symm ▸ hlen)

theorem mem_tableFixups (hq : q ∈ ps) (hs : sharesSuffix u q.sym = true) :
    (⟨u.tbase.toNat + q.offset + 2 + ownLength u q.sym, (u.sfxOf q.sym).toNat⟩ : Fixup) ∈ tableFixups u ps :=
  List.mem_map.mpr ⟨q, List.mem_filter.mpr ⟨hq, hs⟩, rfl⟩

/-- The offsets that entries refer to are those that fixups wrote (R191). -/
theorem Completed.reach_soffOf (h : Completed s tb n t) (hid : s.visited id = true)
    (hs : sharesSuffix (writeSfx s) id = true) : (t.soffOf ((writeSfx s).sfxOf id).toNat).toNat ≤ 65535 := by
  obtain ⟨q, hq, rfl, _⟩ := h.placed hid
  obtain ⟨_, htarget, _⟩ := writeSfx_link hid (of_decide_eq_true hs).2
  obtain ⟨r, hr, hsym, hoff, _⟩ := h.placed htarget
  exact hoff.trans_le (h.reach _ r (mem_tableFixups hq hs) hr hsym)

theorem Completed.holdsEntries (h : Completed s (some tr) n t)
    (htext : HoldsText s.tbase.toNat (treeText (writeSfx s) (fun id => (t.soffOf id).toNat) tr) u)
    (hbase : u.tbase = s.tbase) : HoldsEntries s (fun id => (t.soffOf id).toNat) u where
  entry id hid := by
    obtain ⟨q, hq, rfl, hoff, _⟩ := h.placed hid
    rw [hbase, hoff]
    exact (h.emittable tr rfl).holdsLeaf _ hq htext
  reach _ hid hs := h.reach_soffOf hid hs

/-! ### The round trip -/

/-- The descent before it does not matter for what is emitted. -/
theorem emitsBytes_descended {m : Nat} : EmitsBytes bs (descended m p s) t ↔ EmitsBytes bs s t := by
  rw [descended_frame]
  exact Iff.rfl

theorem mayEmit_descended {m : Nat} : mayEmit bs (descended m p s) = mayEmit bs s := by
  rw [descended_frame]
  rfl

/-- The descent leaves the reader just after the bits of the code. -/
theorem descended_startWalk (m p : Nat) (verify : Bool) (s : State) :
    (descended m p (startWalk verify s)).rpos = (skipBits m s).rpos ∧
      (descended m p (startWalk verify s)).rbit = (skipBits m s).rbit := by
  rw [descended, startWalk, skipBits_walk]
  exact ⟨rfl, rfl⟩

/-- Over the finished table, a symbol whose code the reader stands at is decoded to its bytes (44_decode R217). -/
theorem Completed.decodes (h : Completed s (some tr) n t) (hid : s.visited id = true)
    (htext : HoldsText s.tbase.toNat (treeText (writeSfx s) (fun id => (t.soffOf id).toNat) tr) u)
    (hbase : u.tbase = s.tbase) (hbits : readBits (t.codeOf id).length u = t.codeOf id)
    (hmay : mayEmit (s.symBytes id) (startWalk false u) = true) :
    ∃ k v, WalkTakes k (startWalk false u) v ∧ EmitsBytes (s.symBytes id) (startWalk false u) v ∧
      v.rpos = (skipBits (t.codeOf id).length u).rpos ∧ v.rbit = (skipBits (t.codeOf id).length u).rbit := by
  obtain ⟨q, hq, rfl, hoff, hcode⟩ := h.placed hid
  obtain ⟨bits, hqcode, hdescends⟩ :=
    (h.emittable tr rfl).descends (off := fun id => (t.soffOf id).toNat) s.tbase.toNat hq
  rw [List.nil_append] at hqcode
  rw [hcode, hqcode] at hbits ⊢
  have hframe := descended_frame bits.length (s.tbase.toNat + q.offset) (startWalk false u)
  have hpk := (congrArg State.pk hframe :)
  have hlen := (congrArg State.pkLen hframe :)
  have hbase' := (congrArg State.tbase hframe :)
  have hpos := (congrArg (·.walk.pos) hframe :)
  obtain ⟨k, v, hv, hemits, hrpos, hrbit⟩ := ((h.holdsEntries htext hbase).congr hpk hlen hbase').emits hid
    (by rw [hpos, hbase', hoff, ← hbase]; rfl) (mayEmit_descended.trans hmay)
  have hwalk := hdescends (startWalk false u) v k rfl (congrArg BitVec.toNat hbase) (htext.congr rfl rfl)
    ((readBits_walk ..).trans hbits) hv
  obtain ⟨hskipPos, hskipBit⟩ := descended_startWalk bits.length (s.tbase.toNat + q.offset) false u
  exact ⟨_, v, hwalk, emitsBytes_descended.mp hemits, hrpos.trans hskipPos, hrbit.trans hskipBit⟩

/-- Settles O60: the code leads to the entry of the symbol, and the entry emits the symbol. -/
theorem tableDecodesEverySymbol : Obligations.TableDecodesEverySymbol := by
  intro s t u tb id ha hv htree hperm hexec he hcap hid hpk hbase hlen hbits hdrem hdptr
  obtain ⟨n, hdone⟩ := execSerBuild_completed ha hv htree hperm hexec he
  rw [hdone.tlen] at hcap hlen
  have htext := hdone.holdsTable hcap hpk hlen
  have hmay : mayEmit (s.symBytes id) (startWalk false u) = true :=
    mayEmit_iff.mpr ⟨(symBytes_length s id).trans_le hdrem, (symBytes_length s id).symm ▸ hdptr, nofun⟩
  cases tb with
  | none =>
    obtain ⟨q, hq, _⟩ := hdone.placed hid
    cases hq
  | some tr =>
    obtain ⟨k, v, hwalk, hemits, hrpos, hrbit⟩ := hdone.decodes hid htext hbase hbits hmay
    have hcount : v.walk.count = s.symLen id := by
      obtain ⟨_, _, hcount, _⟩ := hemits
      rw [hcount, symBytes_length]
      exact Nat.zero_add _
    exact ⟨v, decSymbol_ok_iff_walkTakes.mpr ⟨⟨k, hwalk⟩, hcount⟩, hemits, hrpos, hrbit⟩

end Sys2Proof.Machine
end

section
/-! SUPPORT. Coding a block (45_block_encode R240 to R242): when the writer has room for bits and for the byte that pads
them, a run of visited symbols as one put of its code, and the obligations about ENC_SYM and ENC_BLOCK. -/

namespace Sys2Proof.Machine

open Sys2Proof.Safety

variable {s t u : State} {bits : List Bool} {id k l n : Nat}

/-! ### The writer's room -/

/-- While the writer's place stays below bit 2^35, where WPTR would pass its ceiling, a bit is put (40_bitio R130,
R131). -/
theorem bitPut_fits (b : Bool) (h : s.writePos + 1 < 2 ^ 35) :
    ∃ t, bitPut b s = .ok () t ∧ t.writePos = s.writePos + 1 := by
  have hpos : s.writePos = 8 * s.wptr.toNat + s.wcnt.toNat := rfl
  by_cases h7 : s.wcnt = 7
  · have hcnt : s.wcnt.toNat = 7 := congrArg BitVec.toNat h7
    obtain ⟨t, hok, -, hframe⟩ := sendByte_stores (s.accWith b) (s := s) (by bv_omega)
    refine ⟨t, (bitPut_eighth b h7).trans hok, ?_⟩
    rw [hframe]
    unfold State.writePos
    dsimp only
    bv_omega
  · refine ⟨_, bitPut_below b h7, ?_⟩
    unfold State.writePos
    dsimp only
    bv_omega

theorem bitPut_ceiling (b : Bool) (h : 2 ^ 35 ≤ s.writePos + 1) :
    bitPut b s = .raise (.formatLimit 0xFFFFFFFF) s := by
  unfold State.writePos at h
  rw [bitPut_eighth b (by bv_omega), sendByte_ceiling _ (by bv_omega)]

theorem putAll_fits (bits : List Bool) (h : s.writePos + bits.length < 2 ^ 35) :
    ∃ t, putAll bits s = .ok () t ∧ t.writePos = s.writePos + bits.length := by
  induction bits generalizing s with
  | nil => exact ⟨s, rfl, rfl⟩
  | cons b rest ih =>
    rw [List.length_cons] at h ⊢
    obtain ⟨t, ht, hpos⟩ := bitPut_fits b (s := s) (by omega)
    obtain ⟨u, hu, hend⟩ := ih (s := t) (by omega)
    exact ⟨u, by rw [putAll, ht, Res.bind_ok, hu], by omega⟩

/-- Bits that pass the ceiling raise at the bit that would complete the byte there. -/
theorem putAll_ceiling (bits : List Bool) (h : 2 ^ 35 ≤ s.writePos + bits.length) :
    ∃ t, putAll bits s = .raise (.formatLimit 0xFFFFFFFF) t := by
  induction bits generalizing s with
  | nil =>
    unfold State.writePos at h
    rw [List.length_nil] at h
    bv_omega
  | cons b rest ih =>
    rw [List.length_cons] at h
    by_cases hfull : 2 ^ 35 ≤ s.writePos + 1
    · exact ⟨s, by rw [putAll, bitPut_ceiling b hfull, Res.bind_raise]⟩
    · obtain ⟨t, ht, hpos⟩ := bitPut_fits b (s := s) (by omega)
      obtain ⟨u, hu⟩ := ih (s := t) (by omega)
      exact ⟨u, by rw [putAll, ht, Res.bind_ok, hu]⟩

/-- A flush goes on to the next byte boundary (R134). -/
theorem flush_fits (h : s.writePos + 7 < 2 ^ 35) :
    ∃ t, flush s = .ok () t ∧ t.wptr.toNat = (s.writePos + 7) / 8 := by
  unfold State.writePos at h ⊢
  by_cases h0 : s.wcnt = 0
  · exact ⟨s, flush_aligned h0, by bv_omega⟩
  · obtain ⟨t, hok, -, hframe⟩ := sendByte_stores s.wacc (s := s) (by bv_omega)
    have hptr : t.wptr = s.wptr + 1 := (congrArg State.wptr hframe :)
    exact ⟨t, (flush_partial h0).trans hok, by bv_omega⟩

theorem flush_ceiling (h : 2 ^ 35 ≤ s.writePos + 7) : flush s = .raise (.formatLimit 0xFFFFFFFF) s := by
  unfold State.writePos at h
  rw [flush_partial (by bv_omega), sendByte_ceiling _ (by bv_omega)]

/-- Bits put and padded to the byte boundary (R138, 45_block_encode R242). -/
def padAll (bits : List Bool) (s : State) : Res Unit := (putAll bits s).bind fun _ t => flush t

theorem padAll_fits (bits : List Bool) (h : s.writePos + bits.length + 7 < 2 ^ 35) :
    ∃ t, padAll bits s = .ok () t ∧ t.wptr.toNat = (s.writePos + bits.length + 7) / 8 := by
  obtain ⟨t, hput, hpos⟩ := putAll_fits bits (s := s) (by omega)
  obtain ⟨u, hflush, hptr⟩ := flush_fits (s := t) (by omega)
  exact ⟨u, by rw [padAll, hput, Res.bind_ok, hflush], by rw [hptr, hpos]⟩

theorem padAll_ceiling (bits : List Bool) (h : 2 ^ 35 ≤ s.writePos + bits.length + 7) :
    ∃ t, padAll bits s = .raise (.formatLimit 0xFFFFFFFF) t := by
  by_cases hfull : 2 ^ 35 ≤ s.writePos + bits.length
  · obtain ⟨t, hput⟩ := putAll_ceiling bits hfull
    exact ⟨t, by rw [padAll, hput, Res.bind_raise]⟩
  · obtain ⟨t, hput, hpos⟩ := putAll_fits bits (s := s) (by omega)
    exact ⟨t, by rw [padAll, hput, Res.bind_ok, flush_ceiling (by omega)]⟩

/-- Bits put and padded keep RES0 and end aligned. -/
theorem padAll_res0_wcnt (h : padAll bits s = .ok () t) : t.res0 = s.res0 ∧ t.wcnt = 0 := by
  obtain ⟨_, u, hput, hflush⟩ := Res.bind_eq_ok.mp h
  obtain ⟨hcnt, hframe⟩ := flush_frame hflush
  have hres : t.res0 = u.res0 := (congrArg State.res0 hframe :)
  exact ⟨hres.trans (congrArg State.res0 (putAll_frame bits hput) :), hcnt⟩

/-! ### Coding a symbol -/

/-- What coding reads of the state beside the writer: SS, N_SYM, FREQ and CODE (R240, R241). -/
def codingPart (s : State) := (s.ss, s.nSym, s.freq, s.code)

theorem codingPart_of_putAll (h : putAll bits s = .ok () t) : codingPart t = codingPart s :=
  (congrArg codingPart (putAll_frame bits h) :)

section CodingPart

variable (h : codingPart t = codingPart s)
include h

theorem token_congr (k : Nat) : t.token k = s.token k := by
  have hss : t.ss = s.ss := congrArg (fun p => p.1) h
  rw [State.token, State.token, State.ssBits, State.ssBits, hss]

theorem nSym_congr : t.nSym = s.nSym := congrArg (fun p => p.2.1) h

theorem visited_congr (id : Nat) : t.visited id = s.visited id := by
  have hfreq : t.freq = s.freq := congrArg (fun p => p.2.2.1) h
  rw [State.visited, State.visited, State.freqOf, State.freqOf, nSym_congr h, hfreq]

theorem codeOf_congr (id : Nat) : t.codeOf id = s.codeOf id := by
  have hcode : t.code = s.code := congrArg (fun p => p.2.2.2) h
  rw [State.codeOf, State.codeOf, hcode]

theorem encodeSym_visited (hn : s.nSym.toNat ≤ 65536) (hv : s.visited id = true) :
    encodeSym id t = putAll (s.codeOf id) t := by
  rw [encodeSym, nSym_congr h, if_neg (by omega), visited_congr h, if_pos hv, codeOf_congr h]

theorem encodeSym_unvisited (hn : s.nSym.toNat ≤ 65536) (hv : s.visited id = false) :
    encodeSym id t = .raise (.operand id) t := by
  rw [encodeSym, nSym_congr h, if_neg (by omega), visited_congr h, if_neg (Bool.eq_false_iff.mp hv)]

end CodingPart

theorem execEncSym_invalid (ha : s.accepts false = true) (hser : s.vSer = false) :
    FaultsWith (execEncSym s) (.stateFault 0x50) :=
  command_faultsWith (t := s) ha (if_neg (Bool.eq_false_iff.mp hser))

theorem execEncSym_completes (ha : s.accepts false = true) (hser : s.vSer = true)
    (h : encodeSym s.arg0.toNat s = .ok () t) : execEncSym s = .next t :=
  command_completes ha ((if_pos hser).trans h)

theorem execEncSym_faults {c : Cause} (ha : s.accepts false = true) (hser : s.vSer = true)
    (h : encodeSym s.arg0.toNat s = .raise c t) : FaultsWith (execEncSym s) c :=
  command_faultsWith ha ((if_pos hser).trans h)

/-- Settles O50: a visited symbol's code is put whole, or up to the ceiling; any other symbol raises. -/
theorem encSymPutsCode : Obligations.EncSymPutsCode := by
  refine ⟨rfl, fun s => execEncSym_invalid, fun s ha hser hn => ⟨fun hv hroom => ?_, fun hv hfull => ?_, fun hv =>
    execEncSym_faults ha hser (encodeSym_unvisited rfl hn hv)⟩⟩
  · obtain ⟨t, hput, hpos⟩ := putAll_fits (s.codeOf s.arg0.toNat) (s := s) (by unfold State.writePos; omega)
    exact ⟨t, execEncSym_completes ha hser ((encodeSym_visited rfl hn hv).trans hput), hput, hpos⟩
  · obtain ⟨t, hput⟩ := putAll_ceiling (s.codeOf s.arg0.toNat) (s := s) (by unfold State.writePos; omega)
    exact execEncSym_faults ha hser ((encodeSym_visited rfl hn hv).trans hput)

/-! ### Coding a run -/

/-- Pieces that go on alike from where the first one ends make the same sequence. -/
theorem Res.bind_congr {α β : Type} {r : Res α} {f g : α → State → Res β}
    (h : ∀ a u, r = .ok a u → f a u = g a u) : r.bind f = r.bind g := by
  cases r with
  | ok a u => exact h a u rfl
  | raise | stop => rfl

/-- A run of visited symbols is one put of its code; where no Split ended it, coding goes on with the next `d`
tokens (R241). -/
theorem encodeRun_visited (hn : s.nSym.toNat ≤ 65536) (h : codingPart t = codingPart s)
    (hv : runVisited n k s = true) (d : Nat) :
    encodeRun (n + d) k t = (putAll (runCode n k s) t).bind fun _ u =>
      encodeRun (if runLength n k s = n then d else 0) (k + runLength n k s) u := by
  induction n generalizing k t with
  | zero => rw [Nat.zero_add]; rfl
  | succ n ih =>
    rw [Nat.add_right_comm]
    cases htok : s.token k with
    | split => simp [encodeRun, runCode, runLength, putAll, token_congr h, htok]
    | sym id =>
      obtain ⟨hid, hrest⟩ : s.visited id = true ∧ runVisited n (k + 1) s = true := by
        simpa only [runVisited, htok, Bool.and_eq_true] using hv
      simp only [encodeRun, runCode, runLength, token_congr h, htok, encodeSym_visited h hn hid, putAll_append,
        Res.bind_assoc, Nat.add_right_cancel_iff]
      refine Res.bind_congr fun _ u hu => ?_
      rw [ih ((codingPart_of_putAll hu).trans h) hrest, Nat.add_assoc k, Nat.add_comm 1]

theorem encodeRun_whole (hn : s.nSym.toNat ≤ 65536) (h : codingPart t = codingPart s)
    (hv : runVisited n k s = true) :
    encodeRun n k t = (putAll (runCode n k s) t).bind fun _ u => .ok (k + runLength n k s) u := by
  refine (encodeRun_visited hn h hv 0).trans ?_
  simp only [ite_self, encodeRun]

/-- An unvisited symbol raises once the visited ones before it are coded. -/
theorem encodeRun_unvisited (hn : s.nSym.toNat ≤ 65536) (h : codingPart t = codingPart s) (hl : l < n)
    (hv : runVisited l k s = true) (hlen : runLength l k s = l) (htok : s.token (k + l) = .sym id)
    (hid : s.visited id = false) (hput : putAll (runCode l k s) t = .ok () u) :
    encodeRun n k t = .raise (.operand id) u := by
  have hu := (codingPart_of_putAll hput).trans h
  obtain ⟨d, rfl⟩ : ∃ d, n = l + (d + 1) := ⟨n - l - 1, by omega⟩
  rw [encodeRun_visited hn h hv, hput, Res.bind_ok, if_pos hlen, hlen]
  simp only [encodeRun, token_congr hu, htok, encodeSym_unvisited hu hn hid, Res.bind_raise]

theorem runLength_le (n k : Nat) (s : State) : runLength n k s ≤ n := by
  induction n generalizing k with
  | zero => exact le_rfl
  | succ n ih =>
    cases htok : s.token k with
    | split => simp [runLength, htok]
    | sym id => simpa [runLength, htok] using ih (k + 1)

/-! ### ENC_BLOCK -/

/-- The state in which ENC_BLOCK starts to code: RES0 holds the block's start (R241). -/
def blockStart (s : State) : State := { s with res0 := s.wptr }

/-- The number of tokens from ARG0 on (R241). -/
def State.tokensLeft (s : State) : Nat := s.ssLen.toNat - s.arg0.toNat

/-- The code of the block at ARG0 (R241). -/
def State.blockCode (s : State) : List Bool := runCode s.tokensLeft s.arg0.toNat s

/-- Where the block at ARG0 ends: the next Split, or the end of SS (R241). -/
def State.blockEnd (s : State) : Nat := s.arg0.toNat + runLength s.tokensLeft s.arg0.toNat s

theorem blockStart_codingPart (s : State) : codingPart (blockStart s) = codingPart s := rfl

/-- An aligned writer stands at the start of the byte at WPTR. -/
theorem blockStart_writePos (h0 : s.wcnt = 0) : (blockStart s).writePos = 8 * s.wptr.toNat := by
  rw [State.writePos, blockStart, h0]
  rfl

/-- The first token of the next block is a word: it lies at most at SS_LEN, or at ARG0 where that is beyond. -/
theorem nextBlock_toNat (s : State) :
    (BitVec.ofNat 32 (if s.blockEnd < s.ssLen.toNat then s.blockEnd + 1 else s.blockEnd)).toNat =
      s.blockEnd + if s.blockEnd < s.ssLen.toNat then 1 else 0 := by
  have hle := runLength_le s.tokensLeft s.arg0.toNat s
  have hk := s.arg0.isLt
  have hss := s.ssLen.isLt
  rw [BitVec.toNat_ofNat]
  unfold State.blockEnd State.tokensLeft at *
  split <;> exact Nat.mod_eq_of_lt (by omega)

/-- RES1 plays no part in what is read back. -/
theorem readsBack_res1 {a len : Word} (x : Word) (hlen : a.toNat + (bits.length + 7) / 8 ≤ len.toNat)
    (h : ReadsBack a len bits t) : ReadsBack a len bits { t with res1 := x } := by
  have hroom : 8 * a.toNat + 8 * ((bits.length + 7) / 8) ≤ 8 * len.toNat := by omega
  rw [ReadsBack, readBits_placed hroom] at h ⊢
  exact h

theorem execEncBlock_invalid (ha : s.accepts false = true) (hser : s.vSer = false) :
    FaultsWith (execEncBlock s) (.stateFault 0x51) :=
  command_faultsWith (t := s) ha (if_neg (Bool.eq_false_iff.mp hser))

section Ready

variable (ha : s.accepts false = true) (hser : s.vSer = true)
include ha hser

theorem execEncBlock_unaligned (h : s.wcnt ≠ 0) : FaultsWith (execEncBlock s) (.operand s.wcnt.toNat) := by
  refine command_faultsWith (t := s) ha ?_
  rw [if_pos hser, State.aligned, if_neg (by simpa using h)]

variable (h0 : s.wcnt = 0)
include h0

theorem execEncBlock_completes (hrun : encodeRun s.tokensLeft s.arg0.toNat (blockStart s) = .ok k u)
    (hflush : flush u = .ok () t) :
    execEncBlock s = .next { t with res1 := BitVec.ofNat 32 (if k < t.ssLen.toNat then k + 1 else k) } := by
  refine command_completes ha ?_
  rw [if_pos hser, State.aligned, if_pos (decide_eq_true h0), ← State.tokensLeft, ← blockStart, hrun, Res.bind_ok,
    hflush, Res.bind_ok]

theorem execEncBlock_faults {c : Cause}
    (h : (encodeRun s.tokensLeft s.arg0.toNat (blockStart s)).bind (fun _ u => flush u) = .raise c t) :
    FaultsWith (execEncBlock s) c := by
  refine command_faultsWith (t := t) ha ?_
  rw [if_pos hser, State.aligned, if_pos (decide_eq_true h0), ← State.tokensLeft, ← blockStart]
  rcases Res.bind_eq_raise.mp h with hrun | ⟨k, u, hrun, hflush⟩
  · rw [hrun, Res.bind_raise]
  · rw [hrun, Res.bind_ok, hflush, Res.bind_raise]

variable (hn : s.nSym.toNat ≤ 65536)
include hn

/-- An unvisited symbol raises where it stands in the run (R241). -/
theorem execEncBlock_unvisited (hl : l < s.tokensLeft) (hv : runVisited l s.arg0.toNat s = true)
    (hlen : runLength l s.arg0.toNat s = l) (htok : s.token (s.arg0.toNat + l) = .sym id)
    (hid : s.visited id = false) (hroom : s.wptr.toNat + (runCode l s.arg0.toNat s).length / 8 ≤ 2 ^ 32 - 1) :
    FaultsWith (execEncBlock s) (.operand id) := by
  have hstart := blockStart_writePos h0
  obtain ⟨t, hput, -⟩ := putAll_fits (runCode l s.arg0.toNat s) (s := blockStart s) (by omega)
  refine execEncBlock_faults ha hser h0 (t := t) ?_
  rw [encodeRun_unvisited hn (blockStart_codingPart s) hl hv hlen htok hid hput, Res.bind_raise]

variable (hv : runVisited s.tokensLeft s.arg0.toNat s = true)
include hv

/-- The block is its code, put and padded from WPTR on (R241, R242). -/
theorem execEncBlock_pads (h : padAll s.blockCode (blockStart s) = .ok () t) :
    execEncBlock s = .next { t with
      res1 := BitVec.ofNat 32 (if s.blockEnd < s.ssLen.toNat then s.blockEnd + 1 else s.blockEnd) } := by
  obtain ⟨_, u, hput, hflush⟩ := Res.bind_eq_ok.mp h
  have hrun := encodeRun_whole hn (blockStart_codingPart s) hv
  rw [← State.blockCode, hput, Res.bind_ok] at hrun
  have hss : t.ssLen = u.ssLen := (congrArg State.ssLen (flush_frame hflush).2 :)
  have hss' : u.ssLen = s.ssLen := (congrArg State.ssLen (putAll_frame _ hput) :)
  rw [execEncBlock_completes ha hser h0 hrun hflush, hss, hss', State.blockEnd]

theorem execEncBlock_ceiling (hfull : 2 ^ 32 - 1 < s.wptr.toNat + (s.blockCode.length + 7) / 8) :
    FaultsWith (execEncBlock s) (.formatLimit 0xFFFFFFFF) := by
  have hstart := blockStart_writePos h0
  obtain ⟨t, hpad⟩ := padAll_ceiling s.blockCode (s := blockStart s) (by omega)
  refine execEncBlock_faults ha hser h0 (t := t) ?_
  rw [encodeRun_whole hn (blockStart_codingPart s) hv, Res.bind_assoc]
  exact hpad

theorem execEncBlock_region (hroom : s.wptr.toNat + (s.blockCode.length + 7) / 8 ≤ 2 ^ 32 - 1) :
    ∃ t, execEncBlock s = .next t ∧ t.res0 = s.wptr ∧
      t.wptr.toNat = s.wptr.toNat + (s.blockCode.length + 7) / 8 ∧ t.wcnt = 0 ∧
      t.res1.toNat = s.blockEnd + (if s.blockEnd < s.ssLen.toNat then 1 else 0) ∧
      (s.wacc = 0 → s.wptr.toNat + (s.blockCode.length + 7) / 8 ≤ s.pkCap.toNat → t.ovf = s.ovf ∧
        ∀ len : Word, s.wptr.toNat + (s.blockCode.length + 7) / 8 ≤ len.toNat →
          ReadsBack s.wptr len s.blockCode t) := by
  have hstart := blockStart_writePos h0
  obtain ⟨t, hpad, hptr⟩ := padAll_fits s.blockCode (s := blockStart s) (by omega)
  obtain ⟨hres, hcnt⟩ := padAll_res0_wcnt hpad
  refine ⟨_, execEncBlock_pads ha hser h0 hn hv hpad, hres, by dsimp only; omega, hcnt, nextBlock_toNat s,
    fun hacc hcap => ?_⟩
  obtain ⟨u, hback, -, -, hovf, hreads⟩ := putBitsReadBack s.blockCode (blockStart s) h0 hacc hcap
  cases hpad.symm.trans hback
  exact ⟨hovf, fun len hlen => readsBack_res1 _ hlen (hreads len hlen)⟩

end Ready

/-- Settles O51: the run's code is put and padded as one list of bits, so the block is there as O31 says. -/
theorem encBlockCodesRun : Obligations.EncBlockCodesRun :=
  ⟨rfl, fun _ => execEncBlock_invalid, fun _ ha hser hn => ⟨execEncBlock_unaligned ha hser,
    fun h0 hv => execEncBlock_region ha hser h0 hn hv, fun h0 hv => execEncBlock_ceiling ha hser h0 hn hv,
    fun _ _ h0 hl hv hlen htok hid => execEncBlock_unvisited ha hser h0 hn hl hv hlen htok hid⟩⟩

end Sys2Proof.Machine
end

section
/-! SUPPORT. Housekeeping (46_control R250 to R252): when a command starts, an equation for each of NOP, CLR and RST,
and the obligations about them. -/

namespace Sys2Proof.Machine

open Sys2Proof.Safety

variable {s : State}

/-! ### When a command starts -/

/-- CLR and RST start whenever BUSY is clear (10_state R22). -/
theorem accepts_always (hb : s.busy = false) : s.accepts true = true := by
  rw [State.accepts, hb]
  rfl

/-- Any other command starts when BUSY is clear and no error is pending (10_state R22). -/
theorem accepts_plain_iff : s.accepts false = true ↔ s.busy = false ∧ s.err = 0 := by
  simp [State.accepts]

/-- Any other command is turned away while BUSY or with an error pending (60_exceptions R277). -/
theorem not_accepts_plain (h : s.busy = true ∨ s.err ≠ 0) : s.accepts false = false := by
  rw [Bool.eq_false_iff, ne_eq, accepts_plain_iff]
  rintro ⟨hb, he⟩
  rcases h with h | h
  · exact absurd (hb.symm.trans h) nofun
  · exact h he

/-! ### NOP and CLR -/

theorem execNop_completes (hb : s.busy = false) (he : s.err = 0) : execNop s = .next s :=
  command_completes (accepts_plain_iff.mpr ⟨hb, he⟩) rfl

theorem execNop_refused (h : s.busy = true ∨ s.err ≠ 0) : execNop s = .refused .commandRefused :=
  command_refused (not_accepts_plain h)

theorem execClr_completes (hb : s.busy = false) : execClr s = .next (acknowledge s) :=
  command_completes (accepts_always hb) rfl

/-- Settles O8: NOP's body is done at once, and only a pending error or BUSY keeps it from starting. -/
theorem nopChangesNothing : Obligations.NopChangesNothing :=
  ⟨rfl, fun _ => ⟨execNop_completes, execNop_refused⟩⟩

/-- Settles O9: CLR is the acknowledge of R275 and starts with an error pending, too. -/
theorem clrClearsErrAndOvf : Obligations.ClrClearsErrAndOvf :=
  ⟨rfl, fun _ => execClr_completes⟩

/-! ### RST -/

theorem execRst_completes (hb : s.busy = false) : execRst s = .next (resetRegisters s) :=
  command_completes (accepts_always hb) rfl

theorem resetRegisters_readReg (s : State) (r : Reg) : (resetRegisters s).readReg r = State.reset.readReg r := by
  cases r <;> rfl

theorem resetRegisters_accepts (s : State) : (resetRegisters s).accepts false = true :=
  accepts_plain_iff.mpr ⟨rfl, rfl⟩

theorem execSerBuild_invalid (ha : s.accepts false = true) (hv : s.vHuf = false) :
    FaultsWith (execSerBuild s) (.stateFault 0x42) :=
  execSerBuild_eq s ▸ command_faultsWith (t := s) ha (if_neg (Bool.eq_false_iff.mp hv))

/-- With V_HUF clear the commands that read the tree's arrays raise StateFault of their opcode (60_exceptions R268). -/
theorem treeReaders_invalid (ha : s.accepts false = true) (hv : s.vHuf = false) :
    FaultsWith (exec .hufBits s) (.stateFault 0x31) ∧ FaultsWith (exec .sfxFind s) (.stateFault 0x40) ∧
      FaultsWith (exec .serSize s) (.stateFault 0x41) ∧ FaultsWith (exec .serBuild s) (.stateFault 0x42) :=
  ⟨execHufBits_invalid ha hv, execSfxFind_invalid ha hv, execSerSize_invalid ha hv, execSerBuild_invalid ha hv⟩

/-- Settles O7: RST answers `resetRegisters`, which clears ERR and V_HUF, so the readers start and find no tree. -/
theorem rstResetsRegistersKeepsMemories : Obligations.RstResetsRegistersKeepsMemories := by
  refine ⟨rfl, fun s hb => ⟨resetRegisters s, execRst_completes hb, resetRegisters_readReg s, rfl, rfl, rfl, rfl, rfl,
    rfl, rfl, rfl, rfl, rfl, rfl, rfl, fun i hi => ?_⟩⟩
  obtain ⟨hbits, hfind, hsize, hbuild⟩ := treeReaders_invalid (resetRegisters_accepts s) rfl
  simp only [List.mem_cons, List.not_mem_nil, or_false] at hi
  obtain rfl | rfl | rfl | rfl := hi
  · exact hbits
  · exact hfind
  · exact hsize
  · exact hbuild

end Sys2Proof.Machine
end

section
/-! SUPPORT. Which commands are turned away (60_exceptions R277), what an opcode outside the table does (R269), arrays
that are not valid (R268) and the idle engine (R285). -/

namespace Sys2Proof.Machine

open Sys2Proof.Safety

variable {s : State} {c : Byte} {i : Instr}

/-! ### Commands turned away -/

/-- While BUSY nothing starts, CLR and RST included (10_state R22). -/
theorem not_accepts_busy (always : Bool) (hb : s.busy = true) : s.accepts always = false := by
  rw [State.accepts, hb]
  rfl

theorem exec_refused (hi : i.layer = .command) (h : s.busy = true ∨ (s.err ≠ 0 ∧ i ≠ .clr ∧ i ≠ .rst)) :
    exec i s = .refused .commandRefused := by
  have hplain := not_accepts_plain (s := s) (h.imp_right And.left)
  unfold exec
  cases i with
  | clr =>
    obtain hb | ⟨_, hne, _⟩ := h
    · exact command_refused (not_accepts_busy true hb)
    · exact absurd rfl hne
  | rst =>
    obtain hb | ⟨_, _, hne⟩ := h
    · exact command_refused (not_accepts_busy true hb)
    · exact absurd rfl hne
  | leafB | leafS | leafX | br | brl | vliShort | vliLong => cases hi
  | _ => exact command_refused hplain

/-- The opcode of CLR and RST is theirs alone (30_encoding R110). -/
theorem decodeCommand_ne_clr_rst (h : decodeCommand c = some i) (h1 : c ≠ 0x01) (h2 : c ≠ 0x02) :
    i ≠ .clr ∧ i ≠ .rst := by
  have henc := encode_of_decodeCommand h
  refine ⟨?_, ?_⟩ <;> rintro rfl <;> cases henc
  · exact h1 rfl
  · exact h2 rfl

/-- Settles O10: neither a command of the table nor an opcode outside it starts. -/
theorem commandsTurnedAway : Obligations.CommandsTurnedAway := by
  intro s c h
  unfold cmdWrite
  split
  · next i hi =>
    exact exec_refused (decodeCommand_layer hi) (h.imp_right fun ⟨he, h1, h2⟩ =>
      ⟨he, decodeCommand_ne_clr_rst hi h1 h2⟩)
  · exact command_refused (not_accepts_plain (h.imp_right And.left))

/-! ### An opcode outside the table -/

theorem decodeCommand_of_illegal (h : decode .command [c] = .error (.illegalOpcode c)) : decodeCommand c = none := by
  cases hd : decodeCommand c with
  | none => rfl
  | some i => cases (decode_command hd []).symm.trans h

theorem illegalCommand_faults (hb : s.busy = false) (he : s.err = 0) :
    illegalCommand c s = .next (takeFault (.illegalCommand c.toNat) s) :=
  command_faults (accepts_plain_iff.mpr ⟨hb, he⟩) rfl

/-- Settles O11: the fault is taken in the state as it stood, whose BUSY and walk are clear already. -/
theorem illegalOpcodeRaises : Obligations.IllegalOpcodeRaises := by
  intro s c hb he hw hd
  refine ⟨takeFault (.illegalCommand c.toNat) s, ?_, rfl, BitVec.ofNat_toNat 32 c, ?_⟩
  · rw [cmdWrite, decodeCommand_of_illegal hd]
    exact illegalCommand_faults hb he
  · rw [takeFault, ← hb, ← hw]

/-! ### Arrays that are not valid, the idle engine -/

/-- Settles O12, reader by reader. -/
theorem invalidArraysRaiseStateFault : Obligations.InvalidArraysRaiseStateFault :=
  fun _ ha => ⟨treeReaders_invalid ha, fun hser => ⟨execEncSym_invalid ha hser, execEncBlock_invalid ha hser⟩⟩

/-- Settles O21: without an action of the host a step between commands answers the state itself. -/
theorem idleKeepsState : Obligations.IdleKeepsState := by
  intro s hp hscript
  rw [step_of_idle hp, hostStep, hscript]

end Sys2Proof.Machine
end

section
/-! SUPPORT. What an instruction can have written when it completes or raises (`Writes`): the lists of `onlyWritten`,
for every piece of pseudocode and for what a fault leaves unspecified (60_exceptions R272). -/

namespace Sys2Proof.Machine

open Sys2Proof.Safety

variable {α β : Type} {i j : Instr} {s t u : State} {c : Cause}

/-! ### The lists -/

/-- From `s` to `t` nothing changed but what the rule of `i` lists as written. -/
def Writes (i : Instr) (s t : State) : Prop := t = onlyWritten i s t

theorem Writes.refl (i : Instr) (s : State) : Writes i s s := by
  cases i <;> rfl

theorem onlyWritten_onlyWritten (i : Instr) (s t u : State) :
    onlyWritten i (onlyWritten i s t) u = onlyWritten i s u := by
  cases i <;> rfl

theorem Writes.trans (h : Writes i s t) (h' : Writes i t u) : Writes i s u := by
  unfold Writes at h h' ⊢
  rw [h, onlyWritten_onlyWritten] at h'
  exact h'

/-- What one rule lists, a rule that lists it too may write. -/
theorem Writes.mono (h : Writes j s t) (hji : ∀ s t, Writes i s (onlyWritten j s t)) : Writes i s t := by
  unfold Writes at h
  rw [h]
  exact hji s t

/-- No rule but those of CLR and RST lists ERR. -/
theorem Writes.err (h : Writes i s t) (hclr : i ≠ .clr) (hrst : i ≠ .rst) : t.err = s.err := by
  unfold Writes at h
  rw [h]
  cases i with
  | clr => exact absurd rfl hclr
  | rst => exact absurd rfl hrst
  | _ => rfl

theorem Res.Ends.thenWrites {r : Res α} {k : α → State → Res β} (h : r.Ends (Writes i s))
    (hk : ∀ a t, Writes i s t → (k a t).Ends (Writes i t)) : (r.bind k).Ends (Writes i s) :=
  Res.Ends.seq (R := Writes i) Writes.trans h hk

/-- A piece that starts after something listed was written. -/
theorem Res.Ends.afterWrites {r : Res α} (h : r.Ends (Writes i t)) (h' : Writes i s t) : r.Ends (Writes i s) :=
  h.mono fun _ => h'.trans

/-! ### The writer -/

section Append

variable (hi : ∀ s t, Writes i s (appendFrom t s))
include hi

theorem pkWrite_writes (a : Nat) (v : Byte) : Writes i s (pkWrite a v s) := by
  have hframe : pkWrite a v s = appendFrom (pkWrite a v s) s := by
    conv_lhs => rw [pkWrite_frame]
    rw [appendFrom, show (pkWrite a v s).wptr = s.wptr by rw [pkWrite_frame]]
  rw [hframe]
  exact hi ..

theorem wAppend_writes (v : Byte) : (wAppend v s).Ends (Writes i s) := by
  unfold wAppend
  split
  · exact .refl i s
  · exact (pkWrite_writes hi _ v).trans (hi _ { pkWrite s.wptr.toNat v s with wptr := s.wptr + 1 })

theorem appendAll_writes (bs : List Byte) : (appendAll bs s).Ends (Writes i s) := by
  induction bs generalizing s with
  | nil => exact .refl i s
  | cons v rest ih => exact (wAppend_writes hi v).thenWrites fun _ _ _ => ih

end Append

theorem bwPut_lists_append (s t : State) : Writes .bwPut s (appendFrom t s) := rfl

theorem vliEnc_lists_append (s t : State) : Writes .vliEnc s (appendFrom t s) := rfl

theorem serBuild_lists_append (s t : State) : Writes .serBuild s (appendFrom t s) := rfl

theorem bitPut_writes (b : Bool) : (bitPut b s).Ends (Writes .bwPut s) := by
  unfold bitPut
  dsimp only
  split
  · exact (wAppend_writes bwPut_lists_append _).thenWrites fun _ _ _ => rfl
  · exact rfl

theorem putAll_writes (bs : List Bool) : (putAll bs s).Ends (Writes .bwPut s) := by
  induction bs generalizing s with
  | nil => exact .refl _ s
  | cons b rest ih => exact (bitPut_writes b).thenWrites fun _ _ _ => ih

theorem flush_writes : (flush s).Ends (Writes .bwPut s) := by
  unfold flush
  split
  · exact .refl _ s
  · exact (wAppend_writes bwPut_lists_append _).thenWrites fun _ _ _ => rfl

theorem encodeSym_writes (id : Nat) : (encodeSym id s).Ends (Writes .bwPut s) := by
  unfold encodeSym
  split
  · exact .refl _ s
  · split
    · exact putAll_writes _
    · exact .refl _ s

theorem encodeRun_writes (n k : Nat) : (encodeRun n k s).Ends (Writes .bwPut s) := by
  induction n generalizing k s with
  | zero => exact .refl _ s
  | succ n ih =>
    unfold encodeRun
    split
    · exact .refl _ s
    · exact (encodeSym_writes _).thenWrites fun _ _ _ => ih (k + 1)

/-! ### The decode walk -/

theorem rawEmit_writes (v : Byte) : (rawEmit v s).Ends (Writes .decSym s) := by
  unfold rawEmit
  split
  · exact .refl _ s
  · split
    · split
      · exact .refl _ s
      · exact rfl
    · split <;> exact rfl

theorem emitBytes_writes (a n : Nat) : (emitBytes a n s).Ends (Writes .decSym s) := by
  induction n generalizing a s with
  | zero => exact .refl _ s
  | succ n ih =>
    exact pkRead_bind_ends (.refl _ s) fun v => (rawEmit_writes v).thenWrites fun _ _ _ => ih (a + 1)

theorem branch_writes (l r : Nat) : (branch l r s).Ends (Writes .decSym s) := by
  unfold branch
  split
  · exact .refl _ s
  · dsimp only
    rw [bitRead_frame]
    exact rfl

theorem nodeLeafB_writes (data : Byte) : (nodeLeafB data s).Ends (Writes .decSym s) :=
  Res.Ends.afterWrites (t := setTp s) ((rawEmit_writes data).thenWrites fun _ _ _ => rfl) rfl

theorem nodeLeafS_writes (n : Byte) : (nodeLeafS n s).Ends (Writes .decSym s) :=
  Res.Ends.afterWrites (t := setTp s) ((emitBytes_writes _ _).thenWrites fun _ _ _ => rfl) rfl

theorem nodeLeafX_writes (n : Byte) : (nodeLeafX n s).Ends (Writes .decSym s) :=
  Res.Ends.afterWrites (t := setTp s) ((emitBytes_writes _ _).thenWrites fun _ u _ =>
    pkRead_bind_ends (.refl _ u) fun _ => pkRead_bind_ends (.refl _ u) fun _ => rfl) rfl

theorem nodeStep_writes : (nodeStep s).Ends (Writes .decSym s) := by
  refine withNode_ends (.refl _ s) fun b b1 b2 => ?_
  unfold caseNode
  split
  · exact nodeLeafB_writes b1
  · split
    · exact nodeLeafS_writes b1
    · split
      · exact nodeLeafX_writes b1
      · split
        · exact branch_writes _ _
        · exact branch_writes _ _

theorem runWalk_writes (k : Nat) : (runWalk k s).Ends (Writes .decSym s) := by
  induction k generalizing s with
  | zero => trivial
  | succ k ih =>
    refine nodeStep_writes.thenWrites fun _ t _ => ?_
    split
    · exact .refl _ t
    · exact ih

theorem decSymbol_writes (verify : Bool) : (decSymbol verify s).Ends (Writes .decSym s) :=
  Res.Ends.afterWrites (t := startWalk verify s) ((runWalk_writes _).thenWrites fun _ t _ => .refl _ t) rfl

theorem decBlockLoop_writes (verify : Bool) (k total : Nat) :
    (decBlockLoop verify k total s).Ends (Writes .decSym s) := by
  induction k generalizing total s with
  | zero => trivial
  | succ k ih =>
    unfold decBlockLoop
    split
    · exact .refl _ s
    · exact (decSymbol_writes verify).thenWrites fun n _ _ => ih (total + n)

/-- The check of the length leaves the state as it is (44_decode R220). -/
theorem checkLength_ends {P : State → Prop} {n : Nat} (h : P s) : (checkLength n s).Ends P := by
  unfold checkLength
  split
  · exact h
  · exact h

/-! ### The serializer -/

theorem sfxAll_writesSfx (hi : ∀ s, Writes i s (writeSfx s)) : (sfxAll s).Ends (Writes i s) := by
  unfold sfxAll
  split
  · exact .refl i s
  · split
    · exact .refl i s
    · exact hi s

/-- SER_SIZE, SER_BUILD and EST_SIZE up to the table's size write SFX alone. -/
theorem measured_writes {k : Option HTree → Nat → State → Res Unit} (hi : ∀ s, Writes i s (writeSfx s))
    (hk : ∀ tr n s, (k tr n s).Ends (Writes i s)) : (measured k s).Ends (Writes i s) :=
  (sfxAll_writesSfx hi).thenWrites fun _ t _ => withTree_ends fun tr =>
    Res.ofExcept_bind_ends (.refl i t) fun n => hk tr n t

theorem emitEntry_writes (id : Nat) : (emitEntry id s).Ends (Writes .serBuild s) := by
  unfold emitEntry
  split
  · exact appendAll_writes serBuild_lists_append _
  · split
    · exact appendAll_writes serBuild_lists_append _
    · exact (appendAll_writes serBuild_lists_append _).thenWrites fun _ t _ =>
        Res.Ends.afterWrites (t := addFixup _ t) (appendAll_writes serBuild_lists_append _) rfl

theorem emitTree_writes (tr : HTree) (code : List Bool) : (emitTree tr code s).Ends (Writes .serBuild s) := by
  induction tr generalizing code s with
  | leaf id c => exact (emitEntry_writes id).afterWrites rfl
  | node a b iha ihb =>
    refine Res.ofExcept_bind_ends (.refl _ s) fun sa => Res.ofExcept_bind_ends (.refl _ s) fun sb =>
      Res.ofExcept_bind_ends (.refl _ s) fun skip =>
      (appendAll_writes serBuild_lists_append skip).thenWrites fun _ t _ => ?_
    split
    · exact (ihb _).thenWrites fun _ _ _ => iha _
    · exact (iha _).thenWrites fun _ _ _ => ihb _

theorem emitTable_writes (tb : Option HTree) : (emitTable tb s).Ends (Writes .serBuild s) := by
  cases tb with
  | none => exact .refl _ s
  | some tr => exact emitTree_writes tr []

theorem resolveFixups_writes (k n : Nat) : (resolveFixups k n s).Ends (Writes .serBuild s) := by
  induction n generalizing k s with
  | zero => exact .refl _ s
  | succ n ih =>
    unfold resolveFixups
    split
    · trivial
    · dsimp only
      split
      · exact .refl _ s
      · exact (ih (k + 1)).afterWrites
          ((pkWrite_writes serBuild_lists_append _ _).trans (pkWrite_writes serBuild_lists_append _ _))

theorem buildTable_writes (tb : Option HTree) (est : Nat) : (buildTable tb est s).Ends (Writes .serBuild s) := by
  have hplaced : Writes .serBuild s { s with wptr := s.tbase, wacc := 0, wcnt := 0, nfix := 0 } := rfl
  refine ((emitTable_writes tb).afterWrites hplaced).thenWrites fun _ t _ => ?_
  split
  · exact .refl _ t
  · exact (resolveFixups_writes _ _).thenWrites fun _ _ _ => rfl

/-- HUF_BUILD's body writes the tree and the flags. -/
theorem buildTree_writes (hi : ∀ s t, Writes i s (treeFrom t s)) : (buildTree s).Ends (Writes i s) := by
  cases h : buildTree s with
  | ok _ t => rw [(buildTree_ok h).2]; exact hi s (writeTree (clearTree s))
  | raise c t => rw [buildTree_raise h]; exact hi s (clearTree s)
  | stop f => trivial

end Sys2Proof.Machine
end

section
/-! SUPPORT. What the pieces of pseudocode raise (60_exceptions R260 to R268), each in terms of the state it starts in:
`RaisesOnly C` says that whatever the piece raises, `C` holds of it. -/

namespace Sys2Proof.Machine

open Sys2Proof.Safety

variable {α β : Type} {s t u : State} {c : Cause} {C D : Cause → Prop} {a n k : Nat}

/-! ### Raising -/

/-- Whatever the piece raises, `C` holds of it. -/
def Res.RaisesOnly (C : Cause → Prop) : Res α → Prop
  | .raise c _ => C c
  | .ok _ _ => True
  | .stop _ => True

theorem Res.RaisesOnly.of_raise {r : Res α} (h : r.RaisesOnly C) (hr : r = .raise c t) : C c := by
  subst hr
  exact h

theorem Res.RaisesOnly.mono {r : Res α} (h : r.RaisesOnly C) (hCD : ∀ c, C c → D c) : r.RaisesOnly D := by
  cases r with
  | raise c t => exact hCD c h
  | ok | stop => trivial

/-- Pieces in sequence: each is judged in the state that the one before it left. -/
theorem Res.RaisesOnly.bind {r : Res α} {k : α → State → Res β} (h : r.RaisesOnly C)
    (hk : ∀ a t, r = .ok a t → (k a t).RaisesOnly C) : (r.bind k).RaisesOnly C := by
  cases r with
  | ok a t => exact hk a t rfl
  | raise c t => exact h
  | stop f => trivial

theorem Res.ofExcept_raisesOnly {e : Except Cause α} (h : ∀ c, e = .error c → C c) :
    (Res.ofExcept e s).RaisesOnly C := by
  cases e with
  | ok a => trivial
  | error c => exact h c rfl

/-! ### The writer -/

theorem wAppend_raisesOnly (v : Byte) (h : C (.formatLimit 0xFFFFFFFF)) : (wAppend v s).RaisesOnly C := by
  unfold wAppend
  split
  · next hw => rw [hw]; exact h
  · trivial

theorem appendAll_raisesOnly (bs : List Byte) (h : C (.formatLimit 0xFFFFFFFF)) : (appendAll bs s).RaisesOnly C := by
  induction bs generalizing s with
  | nil => trivial
  | cons v rest ih => exact (wAppend_raisesOnly v h).bind fun _ _ _ => ih

theorem bitPut_raisesOnly (b : Bool) (h : C (.formatLimit 0xFFFFFFFF)) : (bitPut b s).RaisesOnly C := by
  unfold bitPut
  dsimp only
  split
  · exact (wAppend_raisesOnly _ h).bind fun _ _ _ => trivial
  · trivial

theorem putAll_raisesOnly (bs : List Bool) (h : C (.formatLimit 0xFFFFFFFF)) : (putAll bs s).RaisesOnly C := by
  induction bs generalizing s with
  | nil => trivial
  | cons b rest ih => exact (bitPut_raisesOnly b h).bind fun _ _ _ => ih

theorem flush_raisesOnly (h : C (.formatLimit 0xFFFFFFFF)) : (flush s).RaisesOnly C := by
  unfold flush
  split
  · trivial
  · exact (wAppend_raisesOnly _ h).bind fun _ _ _ => trivial

theorem codingPart_of_encodeSym {id : Nat} {x : Unit} (h : encodeSym id s = .ok x t) : codingPart t = codingPart s :=
  (congrArg codingPart (encodeSym_frame h) :)

section Coding

variable (hceil : C (.formatLimit 0xFFFFFFFF)) (hbad : 65536 < s.nSym.toNat → C (.operand s.nSym.toNat))
include hceil hbad

theorem encodeSym_raisesOnly {id : Nat} (h : codingPart t = codingPart s)
    (hid : s.visited id = false → C (.operand id)) : (encodeSym id t).RaisesOnly C := by
  unfold encodeSym
  rw [nSym_congr h, visited_congr h]
  split
  · next hn => exact hbad hn
  · split
    · exact putAll_raisesOnly _ hceil
    · next hv => exact hid (Bool.eq_false_iff.mpr hv)

theorem encodeRun_raisesOnly (h : codingPart t = codingPart s)
    (hid : ∀ j id, k ≤ j → j < k + n → s.token j = .sym id → s.visited id = false → C (.operand id)) :
    (encodeRun n k t).RaisesOnly C := by
  induction n generalizing k t with
  | zero => trivial
  | succ n ih =>
    unfold encodeRun
    rw [token_congr h]
    split
    · trivial
    · next id htok =>
      refine (encodeSym_raisesOnly hceil hbad h (hid k id le_rfl (by omega) htok)).bind fun _ w hw => ?_
      exact ih ((codingPart_of_encodeSym hw).trans h) fun j id hkj hjn => hid j id (by omega) (by omega)

end Coding

/-! ### Readers of PK -/

/-- Of bytes read in ascending order from `a` on, the first one at or beyond PK_LEN raises (20_memory R64). -/
def firstBeyond (a : Nat) (s : State) : Cause := .rangeFault (max a s.pkLen.toNat % 2 ^ 32)

theorem pkRead_raisesOnly (h : C (firstBeyond a s)) : (pkRead a s).RaisesOnly C := by
  unfold pkRead
  split
  · next hle => rwa [firstBeyond, Nat.max_eq_left hle] at h
  · trivial

/-- Past a byte that is read the first one beyond PK_LEN is the same. -/
theorem firstBeyond_succ (h : a < s.pkLen.toNat) : firstBeyond (a + 1) s = firstBeyond a s := by
  rw [firstBeyond, firstBeyond, Nat.max_eq_right h, Nat.max_eq_right h.le]

theorem pkReadList_raisesOnly (h : C (firstBeyond a s)) : (pkReadList a n s).RaisesOnly C := by
  induction n generalizing a with
  | zero => trivial
  | succ n ih =>
    refine (pkRead_raisesOnly h).bind fun v t hv => ?_
    obtain ⟨hlt, _, rfl⟩ := pkRead_ok.mp hv
    exact (ih (firstBeyond_succ hlt ▸ h)).bind fun _ _ _ => trivial

theorem vliRead_raisesOnly (h : C (firstBeyond a s)) : (vliRead a s).RaisesOnly C := by
  refine (pkRead_raisesOnly h).bind fun b0 t hb0 => ?_
  obtain ⟨hlt, _, rfl⟩ := pkRead_ok.mp hb0
  rw [← firstBeyond_succ hlt] at h
  split
  · refine (pkRead_raisesOnly h).bind fun lo u hlo => ?_
    obtain ⟨hlt', _, rfl⟩ := pkRead_ok.mp hlo
    rw [← firstBeyond_succ hlt'] at h
    exact (pkRead_raisesOnly h).bind fun _ _ _ => trivial
  · trivial

/-! ### Emission -/

/-- What emission raises in a walk (20_memory R67): MalformedStream of the entry at the walk's position, or in verify
mode VerifyFail of a RAW index that the block reaches. -/
def EmissionCause (s : State) : Cause → Prop
  | .malformedStream p => p % 2 ^ 32 = s.walk.pos % 2 ^ 32
  | .verifyFail x => s.walk.verify = true ∧ x < 2 ^ 32 ∧
      (s.dptr.toNat + s.drem.toNat < 2 ^ 32 → s.dptr.toNat ≤ x ∧ x < s.dptr.toNat + s.drem.toNat)
  | _ => False

/-- The entry at the walk's position stands in TP (10_state R34). -/
def TpAtPos (s : State) : Prop := s.tp.toNat = s.walk.pos % 2 ^ 32

theorem setTp_tpAtPos (s : State) : TpAtPos (setTp s) := BitVec.toNat_ofNat ..

theorem rawEmit_raisesOnly (v : Byte) (htp : TpAtPos s) : (rawEmit v s).RaisesOnly (EmissionCause s) := by
  have hlt := s.dptr.isLt
  unfold rawEmit
  split
  · exact htp ▸ Nat.mod_mod _ _
  · next hd =>
    split
    · next hv =>
      split
      · exact ⟨hv, hlt, fun _ => ⟨le_rfl, by bv_omega⟩⟩
      · trivial
    · trivial

/-- What is raised after some bytes is one of the causes from the start. -/
theorem EmissionCause.of_emits (h : EmissionCause t c) (hst : Emits s t) (hpos : t.walk.pos = s.walk.pos) :
    EmissionCause s c := by
  cases c with
  | malformedStream p =>
    rw [EmissionCause, hpos] at h
    exact h
  | verifyFail x =>
    obtain ⟨hv, hlt, hx⟩ := h
    refine ⟨hst.mode ▸ hv, hlt, fun hroom => ?_⟩
    have hmoves := hst.moves hroom
    have htotal := hmoves.total
    have hle := hmoves.dptr_le
    have hx := hx (by omega)
    omega
  | _ => exact h.elim

/-- What the bytes of a string raise, read from `a` on and emitted one by one (44_decode R214). -/
def StringCause (a : Nat) (s : State) (c : Cause) : Prop := EmissionCause s c ∨ c = firstBeyond a s

theorem emitBytes_raisesOnly (htp : TpAtPos s) : (emitBytes a n s).RaisesOnly (StringCause a s) := by
  induction n generalizing a s with
  | zero => trivial
  | succ n ih =>
    refine (pkRead_raisesOnly (.inr rfl)).bind fun v w hv => ?_
    obtain ⟨hlt, _, rfl⟩ := pkRead_ok.mp hv
    refine Res.RaisesOnly.bind ((rawEmit_raisesOnly v htp).mono fun _ => .inl) fun _ t ht => ?_
    have hemits := (rawEmit_emits v).ok ht
    have hframe := (rawEmit_ok ht).2.2.2
    have hpos : t.walk.pos = w.walk.pos := (congrArg (·.walk.pos) hframe :)
    have hpkLen : t.pkLen = w.pkLen := (congrArg State.pkLen hframe :)
    have htp' : TpAtPos t := by
      rw [TpAtPos, hpos, show t.tp = w.tp from (congrArg State.tp hframe :)]
      exact htp
    refine (ih htp').mono fun c hc => ?_
    rcases hc with hc | rfl
    · exact .inl (hc.of_emits hemits hpos)
    · refine .inr ?_
      rw [← firstBeyond_succ hlt, firstBeyond, hpkLen, firstBeyond]

/-! ### Nodes -/

theorem branch_raisesOnly (l r : Nat) (h : C (.malformedStream s.walk.pos)) : (branch l r s).RaisesOnly C := by
  unfold branch
  split
  · exact h
  · trivial

theorem nodeLeafB_raisesOnly (d : Byte) : (nodeLeafB d s).RaisesOnly (EmissionCause s) :=
  Res.RaisesOnly.bind (rawEmit_raisesOnly (s := setTp s) d (setTp_tpAtPos s)) fun _ _ _ => trivial

theorem nodeLeafS_raisesOnly (d : Byte) : (nodeLeafS d s).RaisesOnly (StringCause (s.walk.pos + 2) s) :=
  Res.RaisesOnly.bind (emitBytes_raisesOnly (s := setTp s) (setTp_tpAtPos s)) fun _ _ _ => trivial

/-- A string that is emitted lies below PK_LEN. -/
theorem emitBytes_below {x : Unit} (h : emitBytes a n s = .ok x t) : a + n ≤ max a s.pkLen.toNat := by
  induction n generalizing a s with
  | zero => omega
  | succ n ih =>
    obtain ⟨v, w, hw, hemit⟩ := Res.bind_eq_ok.mp h
    obtain ⟨hlt, _, rfl⟩ := pkRead_ok.mp hw
    obtain ⟨_, u, hu, hrest⟩ := Res.bind_eq_ok.mp hemit
    have hpkLen : u.pkLen = w.pkLen := (congrArg State.pkLen (rawEmit_ok hu).2.2.2 :)
    have hle := ih hrest
    rw [hpkLen] at hle
    omega

/-- The offset of a LEAF.X is read after its string (R215). -/
theorem nodeLeafX_raisesOnly (d : Byte) : (nodeLeafX d s).RaisesOnly (StringCause (s.walk.pos + 2) s) := by
  refine Res.RaisesOnly.bind (emitBytes_raisesOnly (s := setTp s) (setTp_tpAtPos s)) fun _ t ht => ?_
  have hframe := emitBytes_frame ht
  have hpos : t.walk.pos = s.walk.pos := (congrArg (·.walk.pos) hframe :)
  have hpkLen : t.pkLen = s.pkLen := (congrArg State.pkLen hframe :)
  have hbelow : s.walk.pos + 2 + d.toNat ≤ max (s.walk.pos + 2) s.pkLen.toNat :=
    emitBytes_below (s := setTp s) ht
  have hlo : StringCause (s.walk.pos + 2) s (firstBeyond (s.walk.pos + 2 + d.toNat) t) := by
    refine .inr ?_
    rw [firstBeyond, firstBeyond, hpkLen]
    congr 2
    omega
  rw [hpos]
  refine (pkRead_raisesOnly hlo).bind fun lo u hu => ?_
  obtain ⟨hlt, _, rfl⟩ := pkRead_ok.mp hu
  rw [← firstBeyond_succ hlt, show s.walk.pos + 2 + d.toNat + 1 = u.walk.pos + 3 + d.toNat by omega] at hlo
  exact (pkRead_raisesOnly hlo).bind fun _ _ _ => trivial

theorem withNode_raisesOnly {k : Byte → Byte → Byte → State → Res α} (hrange : C (firstBeyond s.walk.pos s))
    (hform : s.walk.pos < s.pkLen.toNat → C (.malformedStream s.walk.pos))
    (hk : ∀ b b1 b2, s.walk.pos + nodeFixedLen b ≤ s.pkLen.toNat → (k b b1 b2 s).RaisesOnly C) :
    (withNode k s).RaisesOnly C := by
  refine (pkRead_raisesOnly hrange).bind fun b t hb => ?_
  obtain ⟨hlt, _, rfl⟩ := pkRead_ok.mp hb
  split
  · exact hform hlt
  · refine (pkReadList_raisesOnly (firstBeyond_succ hlt ▸ hrange)).bind fun bs u hbs => ?_
    obtain ⟨hle, _, rfl⟩ := pkReadList_ok hbs
    exact hk _ _ _ (by have := nodeFixedLen_pos b; omega)

/-- What a step of the walk raises: RangeFault of the first byte of its node beyond PK_LEN, or a fault of the entry that
it has fetched. -/
def StepCause (s : State) (c : Cause) : Prop :=
  c = firstBeyond s.walk.pos s ∨ (s.walk.pos < s.pkLen.toNat ∧ EmissionCause s c)

/-- The string of a leaf entry goes on where its fixed part ends. -/
theorem StringCause.step (hlen : s.walk.pos + 2 ≤ s.pkLen.toNat) (h : StringCause (s.walk.pos + 2) s c) :
    StepCause s c := by
  rcases h with h | rfl
  · exact .inr ⟨by omega, h⟩
  · refine .inl ?_
    rw [firstBeyond, firstBeyond, Nat.max_eq_right hlen, Nat.max_eq_right (by omega)]

theorem nodeStep_raisesOnly : (nodeStep s).RaisesOnly (StepCause s) := by
  refine withNode_raisesOnly (.inl rfl) (fun hlt => .inr ⟨hlt, rfl⟩) fun b b1 b2 hlen => ?_
  have hpos := nodeFixedLen_pos b
  have hbranch : StepCause s (.malformedStream s.walk.pos) := .inr ⟨by omega, rfl⟩
  unfold caseNode
  split
  · exact (nodeLeafB_raisesOnly b1).mono fun _ hc => .inr ⟨by omega, hc⟩
  · split
    · next hb => subst hb; exact (nodeLeafS_raisesOnly b1).mono fun _ => StringCause.step hlen
    · split
      · next hb => subst hb; exact (nodeLeafX_raisesOnly b1).mono fun _ => StringCause.step hlen
      · split
        · exact branch_raisesOnly _ _ hbranch
        · exact branch_raisesOnly _ _ hbranch

/-! ### Walks -/

/-- The addresses at which a walk can stand end here: a branch reaches at most 65534 bytes beyond PK_LEN, an offset
65535 beyond TBASE (30_encoding R97, R98). -/
def walkReach (s : State) : Nat := max s.pkLen.toNat s.tbase.toNat + 65535

/-- What a walk in mode `verify` raises over a block of DREM bytes from DPTR on. -/
def WalkCause (verify : Bool) (s : State) : Cause → Prop
  | .verifyFail x => verify = true ∧ s.dptr.toNat ≤ x ∧ x < s.dptr.toNat + s.drem.toNat
  | .malformedStream p => p % 2 ^ 32 < s.pkLen.toNat
  | .rangeFault v => ∃ a, s.pkLen.toNat ≤ a ∧ a ≤ walkReach s ∧ v = a % 2 ^ 32
  | _ => False

theorem StepCause.walk (hroom : s.dptr.toNat + s.drem.toNat < 2 ^ 32) (hpos : s.walk.pos ≤ walkReach s)
    (h : StepCause s c) : WalkCause s.walk.verify s c := by
  rcases h with rfl | ⟨hlt, h⟩
  · exact ⟨_, Nat.le_max_right .., by unfold walkReach at *; omega, rfl⟩
  · cases c with
    | malformedStream p => exact h.trans_lt ((Nat.mod_le _ _).trans_lt hlt)
    | verifyFail x =>
      obtain ⟨hv, _, hx⟩ := h
      exact ⟨hv, hx hroom⟩
    | _ => exact h.elim

/-- What a walk reads of the state that it never writes. -/
theorem walkPart_of_config (h : configPart t = configPart s) : t.pkLen = s.pkLen ∧ t.tbase = s.tbase := by
  simp only [configPart, Prod.mk.injEq] at h
  obtain ⟨_, _, _, hbase, _, hlen, _⟩ := h
  exact ⟨hlen, hbase⟩

theorem walkReach_congr (h : configPart t = configPart s) : walkReach t = walkReach s := by
  obtain ⟨hlen, hbase⟩ := walkPart_of_config h
  rw [walkReach, walkReach, hlen, hbase]

/-- A cause met further on in the block is one from its start. -/
theorem WalkCause.earlier {verify : Bool} (h : WalkCause verify t c) (hmoves : CursorMoves s t)
    (hconfig : configPart t = configPart s) : WalkCause verify s c := by
  have htotal := hmoves.total
  have hle := hmoves.dptr_le
  have hlen := (walkPart_of_config hconfig).1
  have hreach := walkReach_congr hconfig
  cases c with
  | verifyFail x =>
    obtain ⟨hv, hlo, hhi⟩ := h
    exact ⟨hv, by omega, by omega⟩
  | malformedStream p =>
    rw [WalkCause, hlen] at h
    exact h
  | rangeFault v =>
    obtain ⟨a, hlo, hhi, hv⟩ := h
    exact ⟨a, hlen ▸ hlo, hreach ▸ hhi, hv⟩
  | _ => exact h.elim

theorem branch_pos {l r : Nat} {x : Unit} (h : branch l r s = .ok x u) : u.walk.pos = l ∨ u.walk.pos = r := by
  unfold branch at h
  split at h
  · cases h
  · cases h
    dsimp only
    split
    · exact .inr rfl
    · exact .inl rfl

/-- A step of the walk stays within its reach. -/
theorem nodeStep_pos_le {x : Unit} (h : nodeStep s = .ok x u) (hphase : u.walk.phase ≠ .idle) :
    u.walk.pos ≤ walkReach s := by
  have hleaf {m : Nat} (hl : LeafStep m s u) : u.walk.pos ≤ walkReach s := by
    obtain hidle | ⟨_, _, hlt⟩ := hl.target
    · exact absurd hidle hphase
    · unfold walkReach
      omega
  obtain ⟨b, _, hlen, _, h⟩ := withNode_ok h
  have hfix := nodeFixedLen_pos b
  unfold caseNode at h
  split at h
  · exact hleaf (nodeLeafB_step h)
  · split at h
    · exact hleaf (nodeLeafS_step h)
    · split at h
      · exact hleaf (nodeLeafX_step h)
      · unfold walkReach
        split at h
        · next hb =>
          subst hb
          have hlen : s.walk.pos + 3 ≤ s.pkLen.toNat := hlen
          have hskip := leWord_le (fixedByte s 0xFF 0) (fixedByte s 0xFF 1)
          rcases branch_pos h with hp | hp <;> omega
        · have hskip := b.isLt
          rcases branch_pos h with hp | hp <;> omega

theorem runWalk_raisesOnly (hroom : s.dptr.toNat + s.drem.toNat < 2 ^ 32) (hpos : s.walk.pos ≤ walkReach s) :
    (runWalk k s).RaisesOnly (WalkCause s.walk.verify s) := by
  induction k generalizing s with
  | zero => trivial
  | succ k ih =>
    refine (nodeStep_raisesOnly.mono fun _ hc => hc.walk hroom hpos).bind fun _ t ht => ?_
    split
    · trivial
    · next hphase =>
      have hemits := nodeStep_emits.ok ht
      have hmoves := hemits.moves hroom
      have hconfig := (nodeStep_works.ok ht).config
      have hreach := walkReach_congr hconfig ▸ nodeStep_pos_le ht hphase
      refine (ih (hmoves.total ▸ hroom) hreach).mono fun c hc => ?_
      rw [hemits.mode] at hc
      exact hc.earlier hmoves hconfig

theorem decSymbol_raisesOnly (verify : Bool) (hroom : s.dptr.toNat + s.drem.toNat < 2 ^ 32) :
    (decSymbol verify s).RaisesOnly (WalkCause verify s) := by
  have hstart : (startWalk verify s).walk.pos ≤ walkReach (startWalk verify s) :=
    (Nat.le_max_right ..).trans (Nat.le_add_right ..)
  exact Res.RaisesOnly.bind (runWalk_raisesOnly (s := startWalk verify s) hroom hstart) fun _ _ _ => trivial

theorem decBlockLoop_raisesOnly (verify : Bool) (total : Nat) (hroom : s.dptr.toNat + s.drem.toNat < 2 ^ 32) :
    (decBlockLoop verify k total s).RaisesOnly (WalkCause verify s) := by
  induction k generalizing total s with
  | zero => trivial
  | succ k ih =>
    unfold decBlockLoop
    split
    · trivial
    · refine (decSymbol_raisesOnly verify hroom).bind fun n t ht => ?_
      have hmoves := ((decSymbol_storesRaw verify).ok ht).moves hroom
      exact (ih _ (hmoves.total ▸ hroom)).mono fun c hc => hc.earlier hmoves ((decSymbol_works verify).ok ht).config

theorem checkLength_raisesOnly (h : 2 ^ 32 - 1 < s.dptr.toNat + n → C (.operand n)) :
    (checkLength n s).RaisesOnly C := by
  unfold checkLength
  split
  · next hn => exact h hn
  · trivial

/-! ### The tree -/

/-- What is reported is a token outside the alphabet (20_memory R70). -/
theorem mem_of_firstForeign {toks : List Token} {id : Nat} (h : firstForeign n toks = some id) :
    Token.sym id ∈ toks ∧ n ≤ id := by
  induction toks with
  | nil => cases h
  | cons tok rest ih =>
    cases tok with
    | split => exact (ih h).imp_left (List.mem_cons_of_mem _)
    | sym m =>
      rw [firstForeign] at h
      split at h
      · next hm => cases h; exact ⟨List.mem_cons_self .., hm⟩
      · exact (ih h).imp_left (List.mem_cons_of_mem _)

theorem foreignToken_of_firstForeign {id : Nat} (h : firstForeign s.nSym.toNat s.tokens = some id) :
    foreignToken s id := by
  obtain ⟨hmem, hid⟩ := mem_of_firstForeign h
  obtain ⟨k, hk, htok⟩ := List.mem_map.mp hmem
  exact ⟨k, List.mem_range.mp hk, htok, hid⟩

theorem buildTree_raisesOnly (hbad : 65536 < s.nSym.toNat → C (.operand s.nSym.toNat))
    (hforeign : ∀ id, foreignToken s id → C (.operand id)) : (buildTree s).RaisesOnly C := by
  unfold buildTree
  dsimp only
  split
  · next hn => exact hbad hn
  · split
    · next hid => exact hforeign _ (foreignToken_of_firstForeign (s := s) hid)
    · trivial

theorem withTree_raisesOnly {k : Option HTree → State → Res α} (h : ∀ tb, s.tree = some tb → (k tb s).RaisesOnly C) :
    (withTree k s).RaisesOnly C := by
  unfold withTree
  split
  · next htree => exact h _ htree
  · trivial

/-! ### The serializer -/

theorem sfxAll_raisesOnly (hbad : 65536 < s.nSym.toNat → C (.operand s.nSym.toNat))
    (hempty : ∀ id, s.visited id = true → s.symLen id = 0 → C (.operand id)) : (sfxAll s).RaisesOnly C := by
  unfold sfxAll
  split
  · next hn => exact hbad hn
  · split
    · next id hid =>
      have h0 : s.symLen id = 0 := by simpa using List.find?_some hid
      exact hempty id (mem_visitedIds.mp (List.mem_of_find?_eq_some hid)) h0
    · trivial

/-- The bytes of a whole table, whether or not its skip values fit 16 bits. -/
def tableExtent (s : State) : Option HTree → Nat
  | none => 0
  | some tr => treeExtent s tr

theorem tableBytes_eq {tb : Option HTree} (hv : s.vHuf = true) (ht : s.tree = some tb) :
    s.tableBytes = tableExtent (writeSfx s) tb := by
  rw [State.tableBytes, if_pos hv, ht]
  cases tb <;> rfl

theorem tableExtent_eq_size {tb : Option HTree} (h : tableSize s tb = .ok n) : tableExtent s tb = n := by
  cases tb with
  | none => exact Except.ok.inj h
  | some tr => exact treeExtent_eq_size tr h

/-- The skip value that does not fit 16 bits is smaller than the table (43_serializer R185). -/
theorem treeSize_error {tr : HTree} (h : treeSize s tr = .error c) :
    ∃ v, 65535 < v ∧ v < treeExtent s tr ∧ c = .formatLimit (v % 2 ^ 32) := by
  have hext (a b : HTree) : treeExtent s a + treeExtent s b < treeExtent s (.node a b) := by
    simp only [treeExtent, nodeExtent]
    split <;> omega
  induction tr with
  | leaf id _ => cases h
  | node a b iha ihb =>
    have hab := hext a b
    cases ha : treeSize s a with
    | error e =>
      cases (treeSize_node_left_error ha).symm.trans h
      obtain ⟨v, hlo, hhi, rfl⟩ := iha ha
      exact ⟨v, hlo, by omega, rfl⟩
    | ok sa =>
      cases hb : treeSize s b with
      | error e =>
        cases (treeSize_node_right_error ha hb).symm.trans h
        obtain ⟨v, hlo, hhi, rfl⟩ := ihb hb
        exact ⟨v, hlo, by omega, rfl⟩
      | ok sb =>
        have hlim : 65535 < min sa sb + 1 := Nat.not_le.mp fun hle => by
          cases (treeSize_node ha hb hle).symm.trans h
        cases (treeSize_node_limit ha hb hlim).symm.trans h
        rw [treeExtent_eq_size a ha, treeExtent_eq_size b hb] at hab
        exact ⟨_, hlim, by omega, rfl⟩

theorem tableSize_error {tb : Option HTree} (h : tableSize s tb = .error c) :
    ∃ v, 65535 < v ∧ v < tableExtent s tb ∧ c = .formatLimit (v % 2 ^ 32) := by
  cases tb with
  | none => cases h
  | some tr => exact treeSize_error h

/-- What SER_SIZE, SER_BUILD and EST_SIZE raise up to the table's size, and after it. -/
theorem measured_raisesOnly {k : Option HTree → Nat → State → Res Unit}
    (hbad : 65536 < s.nSym.toNat → C (.operand s.nSym.toNat))
    (hempty : ∀ id, s.visited id = true → s.symLen id = 0 → C (.operand id))
    (hlimit : ∀ tb c, s.tree = some tb → tableSize (writeSfx s) tb = .error c → C c)
    (hk : ∀ tb n, s.tree = some tb → tableSize (writeSfx s) tb = .ok n → (k tb n (writeSfx s)).RaisesOnly C) :
    (measured k s).RaisesOnly C := by
  refine (sfxAll_raisesOnly hbad hempty).bind fun _ t ht => ?_
  rw [sfxAll_ok ht]
  refine withTree_raisesOnly fun tb htree => ?_
  refine (Res.ofExcept_raisesOnly fun c => hlimit tb c htree).bind fun n u hu => ?_
  obtain ⟨hsize, rfl⟩ := Res.ofExcept_eq_ok.mp hu
  exact hk tb n htree hsize

theorem emitEntry_raisesOnly (id : Nat) (h : C (.formatLimit 0xFFFFFFFF)) : (emitEntry id s).RaisesOnly C := by
  unfold emitEntry
  split
  · exact appendAll_raisesOnly _ h
  · split
    · exact appendAll_raisesOnly _ h
    · exact (appendAll_raisesOnly _ h).bind fun _ _ _ => appendAll_raisesOnly _ h

/-- A tree that has a size raises nothing in pass 1 but at the writer's ceiling (R189). -/
theorem emitTree_raisesOnly {tr : HTree} {code : List Bool} (hsize : treeSize u tr = .ok n)
    (hs : tablePart s = tablePart u) (h : C (.formatLimit 0xFFFFFFFF)) : (emitTree tr code s).RaisesOnly C := by
  induction tr generalizing s code n with
  | leaf id _ => exact emitEntry_raisesOnly id h
  | node a b iha ihb =>
    obtain ⟨sa, sb, ha, hb, hskip, _⟩ := treeSize_node_ok hsize
    simp only [emitTree, treeSize_congr hs, ha, hb, Res.ofExcept, Res.bind_ok, vliBytes_eq_skipField hskip]
    refine (appendAll_raisesOnly _ h).bind fun _ v hv => ?_
    have hv := (appendAll_tablePart hv).trans hs
    split
    · exact (ihb hb hv).bind fun _ w hw => iha ha ((emitTree_tablePart hw).trans hv)
    · exact (iha ha hv).bind fun _ w hw => ihb hb ((emitTree_tablePart hw).trans hv)

theorem emitTable_raisesOnly {tb : Option HTree} (hsize : tableSize u tb = .ok n) (hs : tablePart s = tablePart u)
    (h : C (.formatLimit 0xFFFFFFFF)) : (emitTable tb s).RaisesOnly C := by
  cases tb with
  | none => trivial
  | some tr => exact emitTree_raisesOnly hsize hs h

theorem resolveFixups_raisesOnly (h : ∀ off, 65535 < off → off < 2 ^ 32 → C (.formatLimit off)) :
    (resolveFixups k n s).RaisesOnly C := by
  induction n generalizing k s with
  | zero => trivial
  | succ n ih =>
    unfold resolveFixups
    split
    · trivial
    · dsimp only
      split
      · next hoff => exact h _ hoff (BitVec.isLt _)
      · exact ih

theorem buildTable_raisesOnly {tb : Option HTree} (hsize : tableSize s tb = .ok n)
    (hlimit : ∀ v, 65535 < v → v < 2 ^ 32 → C (.formatLimit v))
    (hverify : ∀ x, x ≠ n → x < 2 ^ 32 → C (.verifyFail x)) : (buildTable tb n s).RaisesOnly C := by
  have hceil : C (.formatLimit 0xFFFFFFFF) := hlimit _ (by decide) (by decide)
  refine Res.RaisesOnly.bind (emitTable_raisesOnly (u := s) hsize rfl hceil) fun _ t _ => ?_
  split
  · next hne => exact hverify _ hne ((Nat.sub_le ..).trans_lt t.wptr.isLt)
  · exact (resolveFixups_raisesOnly hlimit).bind fun _ _ _ => trivial

end Sys2Proof.Machine
end

section
/-! SUPPORT. How an instruction ends (60_exceptions R260, R271, R272): it completes within what its rule lists, or it
takes a fault that its rule names (`Ended`), instruction by instruction; and the obligation about new errors. -/

namespace Sys2Proof.Machine

open Sys2Proof.Safety

variable {i : Instr} {s t u v : State} {c : Cause} {x : Nat}

/-! ### The two ends -/

/-- The value that a cause of `i` started in `s` leaves in EINFO is one that the rule of `i` gives (R260). -/
def RuleNames (i : Instr) (s : State) : Cause → Prop
  | .formatLimit v => limitValue i s (v % 2 ^ 32)
  | .verifyFail v => verifyValue i s (v % 2 ^ 32)
  | .malformedStream v => malformedValue i s (v % 2 ^ 32)
  | .rangeFault v => rangeValue i s (v % 2 ^ 32)
  | .operand v => operandValue i s (v % 2 ^ 32)
  | .stateFault v => stateValue i s (v % 2 ^ 32)
  | .illegalCommand _ => False

theorem RuleNames.records (h : RuleNames i s c) : Records i s c.code (BitVec.ofNat 32 c.info).toNat := by
  rw [BitVec.toNat_ofNat]
  cases c with
  | formatLimit v => exact .inl ⟨rfl, h⟩
  | verifyFail v => exact .inr (.inl ⟨rfl, h⟩)
  | malformedStream v => exact .inr (.inr (.inl ⟨rfl, h⟩))
  | rangeFault v => exact .inr (.inr (.inr (.inl ⟨rfl, h⟩)))
  | operand v => exact .inr (.inr (.inr (.inr (.inl ⟨rfl, h⟩))))
  | stateFault v => exact .inr (.inr (.inr (.inr (.inr ⟨rfl, h⟩))))
  | illegalCommand v => exact h.elim

/-- A value of 32 bits is recorded as it is. -/
theorem ruleNames_formatLimit (hx : x < 2 ^ 32) (h : limitValue i s x) : RuleNames i s (.formatLimit x) := by
  rwa [RuleNames, Nat.mod_eq_of_lt hx]

theorem ruleNames_verifyFail (hx : x < 2 ^ 32) (h : verifyValue i s x) : RuleNames i s (.verifyFail x) := by
  rwa [RuleNames, Nat.mod_eq_of_lt hx]

theorem ruleNames_operand (hx : x < 2 ^ 32) (h : operandValue i s x) : RuleNames i s (.operand x) := by
  rwa [RuleNames, Nat.mod_eq_of_lt hx]

/-- The instruction whose rule lists what a fault of `i` leaves unspecified: for a node, the decode command that it is
part of (44_decode R221). -/
def faultRule : Instr → Instr
  | .leafB _ | .leafS _ | .leafX _ | .br _ | .brl _ _ => .decSym
  | i => i

theorem faultRule_of_node (hi : i.layer = .node) : faultRule i = .decSym := by
  cases i with
  | leafB | leafS | leafX | br | brl => rfl
  | _ => cases hi

theorem faultRule_of_command (hi : i.layer ≠ .node) : faultRule i = i := by
  cases i with
  | leafB | leafS | leafX | br | brl => exact absurd rfl hi
  | _ => rfl

/-- The taking of a fault adds what `faultWritten` lists beside the rule (R271). -/
theorem takeFault_faultWritten (hi : i ≠ .rst) (h : Writes (faultRule i) s v) :
    takeFault c v = faultWritten i s (takeFault c v) := by
  obtain ⟨w, rfl⟩ : ∃ w, v = onlyWritten (faultRule i) s w := ⟨v, h⟩
  cases i with
  | rst => exact absurd rfl hi
  | _ => rfl

/-- From `s` to `t` the instruction took a fault that its rule names. -/
structure FaultTaken (i : Instr) (s t : State) : Prop where
  busy : t.busy = false
  walk : t.walk = Walk.none
  records : Records i s t.err t.einfo.toNat
  written : t = faultWritten i s t

/-- The instruction completed within what its rule lists, or took a fault that its rule names. -/
def Ended (i : Instr) (s t : State) : Prop := Writes (faultRule i) s t ∨ FaultTaken i s t

theorem takeFault_ended (hi : i ≠ .rst) (h : Writes (faultRule i) s v) (hc : RuleNames i s c) :
    Ended i s (takeFault c v) :=
  .inr ⟨rfl, rfl, hc.records, takeFault_faultWritten hi h⟩

theorem command_ended {always : Bool} {spoil : State → State → State} {body : State → Res Unit}
    (h : command always spoil body s = .next t) (hi : i ≠ .rst) (hw : (body s).Ends (Writes (faultRule i) s))
    (hc : (body s).RaisesOnly (RuleNames i s)) (hs : ∀ u, Writes (faultRule i) u (spoil s u)) : Ended i s t := by
  obtain ⟨_, hok | ⟨c, u, hr, rfl⟩⟩ := command_next h
  · exact .inl (hw.ok hok)
  · exact takeFault_ended hi ((hw.raise hr).trans (hs u)) (hc.of_raise hr)

/-- A command whose rule raises nothing. -/
theorem command_ended_of_ok {always : Bool} {spoil : State → State → State} {body : State → Res Unit}
    (h : command always spoil body s = .next t) (hb : body s = .ok () u) (hw : Writes (faultRule i) s u) :
    Ended i s t := by
  obtain ⟨_, hok | ⟨c, w, hr, _⟩⟩ := command_next h
  · cases hb.symm.trans hok
    exact .inl hw
  · cases hb.symm.trans hr

theorem spoilDecode_writes (verify : Bool) (n : Nat) : Writes .decSym t (spoilDecode verify n s t) := by
  cases verify <;> rfl

theorem nodeOutcome_next {f : State → Res Unit} (h : nodeOutcome f s = .next t) :
    f s = .ok () t ∨ ∃ c u, f s = .raise c u ∧ t = takeFault c (spoilDecode s.walk.verify s.drem.toNat s u) := by
  unfold nodeOutcome at h
  split at h
  · next hok => cases h; exact .inl hok
  · next c u hr => cases h; exact .inr ⟨c, u, hr, rfl⟩
  · cases h

theorem nodeOutcome_ended {f : State → Res Unit} (hi : i.layer = .node) (hw : (f s).Ends (Writes .decSym s))
    (hc : (f s).RaisesOnly (RuleNames i s)) (h : nodeOutcome f s = .next t) : Ended i s t := by
  have hrule : faultRule i = .decSym := faultRule_of_node hi
  obtain hok | ⟨c, u, hr, rfl⟩ := nodeOutcome_next h
  · exact .inl (hrule ▸ hw.ok hok)
  · refine takeFault_ended (by rintro rfl; cases hi) ?_ (hc.of_raise hr)
    exact hrule ▸ (hw.raise hr).trans (spoilDecode_writes _ _)

/-! ### The writer and the integers -/

/-- The writer's ceiling, for the commands that put bits (40_bitio R130). -/
theorem ruleNames_ceiling (hi : i ∈ writerCommands) : RuleNames i s (.formatLimit 0xFFFFFFFF) := by
  simp only [writerCommands, List.mem_cons, List.not_mem_nil, or_false] at hi
  obtain rfl | rfl | rfl | rfl | rfl := hi
  · exact rfl
  · exact rfl
  · exact .inl rfl
  · exact rfl
  · exact rfl

theorem execNop_ended (h : execNop s = .next t) : Ended .nop s t :=
  command_ended_of_ok h rfl (.refl .nop s)

theorem execBwInit_ended (h : execBwInit s = .next t) : Ended .bwInit s t :=
  command_ended_of_ok h rfl (by exact rfl)

theorem execBwPut_ended (h : execBwPut s = .next t) : Ended .bwPut s t :=
  command_ended h nofun (bitPut_writes _) (bitPut_raisesOnly _ (ruleNames_ceiling (by decide))) fun _ => rfl

theorem execBwFlush_ended (h : execBwFlush s = .next t) : Ended .bwFlush s t :=
  command_ended h nofun (flush_writes.mono fun _ h => h) (flush_raisesOnly (ruleNames_ceiling (by decide)))
    fun _ => rfl

theorem execBrSeek_ended (h : execBrSeek s = .next t) : Ended .brSeek s t := by
  refine command_ended_of_ok h rfl ?_
  rw [skipBits_frame]
  exact rfl

theorem execBrRead_ended (h : execBrRead s = .next t) : Ended .brRead s t := by
  refine command_ended_of_ok h rfl ?_
  rw [bitRead_frame]
  exact rfl

/-- A writer that is not aligned (10_state R37). -/
theorem wcnt_ne_zero_of_not_aligned (h : ¬ s.aligned = true) : s.wcnt.toNat ≠ 0 := by
  have h : ¬ s.wcnt = 0 := fun h0 => h (decide_eq_true h0)
  bv_omega

theorem execVliEnc_ended (h : execVliEnc s = .next t) : Ended .vliEnc s t := by
  refine command_ended h nofun ?_ ?_ fun _ => rfl
  · split
    · exact Res.ofExcept_bind_ends (.refl _ s) fun bs =>
        (appendAll_writes vliEnc_lists_append bs).thenWrites fun _ _ _ => rfl
    · exact .refl _ s
  · split
    · refine Res.RaisesOnly.bind (Res.ofExcept_raisesOnly fun c hc => ?_) fun bs u _ =>
        (appendAll_raisesOnly bs (ruleNames_ceiling (by decide))).bind fun _ _ _ => trivial
      unfold vliBytes at hc
      split at hc
      · next hv =>
        cases hc
        rw [Nat.mod_eq_of_lt s.arg0.isLt]
        exact ruleNames_formatLimit s.arg0.isLt (.inr ⟨rfl, hv⟩)
      · cases hc
    · next ha =>
      exact ruleNames_operand (i := .vliEnc) (s.wcnt.isLt.trans (by decide)) ⟨rfl, wcnt_ne_zero_of_not_aligned ha⟩

theorem execVliDec_ended (h : execVliDec s = .next t) : Ended .vliDec s t := by
  refine command_ended h nofun (vliRead_bind_ends (Writes.refl .vliDec s) fun _ => ?_) ?_ fun _ => rfl
  · exact rfl
  refine Res.RaisesOnly.bind (vliRead_raisesOnly ?_) fun _ _ _ => trivial
  have hmax : max s.arg0.toNat s.pkLen.toNat < 2 ^ 32 := Nat.max_lt.mpr ⟨s.arg0.isLt, s.pkLen.isLt⟩
  change max s.arg0.toNat s.pkLen.toNat % 2 ^ 32 % 2 ^ 32 = _
  rw [Nat.mod_mod, Nat.mod_eq_of_lt hmax]

/-! ### The tree and the serializer -/

/-- An alphabet beyond FREQ's 65536 entries, for the commands that walk it (42_huffman R161). -/
theorem ruleNames_badAlphabet
    (hi : i ∈ [.hufBuild, .sfxFind, .serSize, .serBuild, .estSize, .encSym, .encBlock]) (hn : 65536 < s.nSym.toNat) :
    RuleNames i s (.operand s.nSym.toNat) := by
  refine ruleNames_operand s.nSym.isLt ?_
  have hbad : badAlphabet s s.nSym.toNat := ⟨rfl, hn⟩
  simp only [List.mem_cons, List.not_mem_nil, or_false] at hi
  obtain rfl | rfl | rfl | rfl | rfl | rfl | rfl := hi
  · exact .inl hbad
  · exact .inl hbad
  · exact .inl hbad
  · exact .inl hbad
  · exact .inl hbad
  · exact .inl hbad
  · exact .inr (.inl hbad)

/-- An id is below 65536 in a token (10_state R42). -/
theorem token_lt {k id : Nat} (h : s.token k = .sym id) : id < 65536 := by
  unfold State.token tokenOf at h
  split at h
  · cases h
  · cases h
    exact Nat.mod_lt _ (by decide)

theorem foreignToken_lt {id : Nat} (h : foreignToken s id) : id < 2 ^ 32 := by
  obtain ⟨k, _, htok, _⟩ := h
  exact (token_lt htok).trans (by decide)

theorem visited_lt {id : Nat} (h : s.visited id = true) : id < s.nSym.toNat :=
  of_decide_eq_true (Bool.and_eq_true_iff.mp h).1

theorem execHufBuild_ended (h : execHufBuild s = .next t) : Ended .hufBuild s t := by
  refine command_ended h nofun ?_ ?_ fun _ => rfl
  · exact (buildTree_writes (i := .hufBuild) fun _ _ => rfl).thenWrites fun _ _ _ => rfl
  · exact Res.RaisesOnly.bind (buildTree_raisesOnly (ruleNames_badAlphabet (by decide)) fun id hid =>
      ruleNames_operand (foreignToken_lt hid) (.inr hid)) fun _ _ _ => trivial

theorem execHufBits_ended (h : execHufBits s = .next t) : Ended .hufBits s t := by
  refine command_ended h nofun ?_ ?_ fun _ => rfl
  · split
    · exact withTree_ends fun _ => rfl
    · exact .refl _ s
  · split
    · exact withTree_raisesOnly fun _ _ => trivial
    · next hv => exact ⟨rfl, Bool.eq_false_iff.mpr hv⟩

theorem execSfxFind_ended (h : execSfxFind s = .next t) : Ended .sfxFind s t := by
  refine command_ended h nofun ?_ ?_ fun _ => rfl
  · split
    · split
      · exact .refl _ s
      · split
        · exact .refl _ s
        · exact rfl
    · exact .refl _ s
  · split
    · split
      · next hn => exact ruleNames_badAlphabet (i := .sfxFind) (by decide) hn
      · split
        · next hid => exact ruleNames_operand (i := .sfxFind) s.arg0.isLt (.inr ⟨rfl, hid⟩)
        · trivial
    · next hv => exact ⟨rfl, Bool.eq_false_iff.mpr hv⟩

/-- A table's size that raises records a value above 65535, as long as the table is below 2^32 bytes. -/
theorem limit_of_tableSize_error {tb : Option HTree} (hv : s.vHuf = true) (ht : s.tree = some tb)
    (hsize : tableSize (writeSfx s) tb = .error c) :
    ∃ x, c = .formatLimit x ∧ x < 2 ^ 32 ∧ (s.tableBytes < 2 ^ 32 → 65535 < x) := by
  obtain ⟨x, hlo, hhi, rfl⟩ := tableSize_error hsize
  refine ⟨_, rfl, Nat.mod_lt _ (by decide), fun hbytes => ?_⟩
  rw [tableBytes_eq hv ht] at hbytes
  rwa [Nat.mod_eq_of_lt (hhi.trans hbytes)]

/-- A visited symbol without bytes (43_serializer R183). -/
theorem ruleNames_empty {id : Nat} (h : ∀ x, s.visited x = true ∧ s.symLen x = 0 → operandValue i s x)
    (hv : s.visited id = true) (h0 : s.symLen id = 0) : RuleNames i s (.operand id) :=
  ruleNames_operand ((visited_lt hv).trans s.nSym.isLt) (h id ⟨hv, h0⟩)

theorem execSerSize_ended (h : execSerSize s = .next t) : Ended .serSize s t := by
  rw [execSerSize_eq] at h
  refine command_ended h nofun ?_ ?_ fun _ => rfl
  · split
    · exact measured_writes (fun _ => rfl) fun _ _ _ => rfl
    · exact .refl _ s
  · split
    · next hv =>
      refine measured_raisesOnly (ruleNames_badAlphabet (by decide)) (fun _ => ruleNames_empty fun _ => .inr)
        (fun tb c ht hsize => ?_) fun _ _ _ _ => trivial
      obtain ⟨x, rfl, hx, hlim⟩ := limit_of_tableSize_error hv ht hsize
      exact ruleNames_formatLimit hx hlim
    · next hv => exact ⟨rfl, Bool.eq_false_iff.mpr hv⟩

theorem execSerBuild_ended (h : execSerBuild s = .next t) : Ended .serBuild s t := by
  rw [execSerBuild_eq] at h
  refine command_ended h nofun ?_ ?_ fun _ => rfl
  · split
    · exact Res.Ends.afterWrites (t := clearTable s)
        (measured_writes (fun _ => rfl) fun tb n _ => buildTable_writes tb n) rfl
    · exact .refl _ s
  · split
    · next hv =>
      refine measured_raisesOnly (s := clearTable s) (ruleNames_badAlphabet (s := s) (by decide))
        (fun _ => ruleNames_empty (s := s) fun _ => .inr) (fun tb c ht hsize => ?_) fun tb n ht hsize => ?_
      · rw [tableSize_congr (writeSfx_clearTable s)] at hsize
        obtain ⟨x, rfl, hx, hlim⟩ := limit_of_tableSize_error hv ht hsize
        exact ruleNames_formatLimit hx hlim
      · refine buildTable_raisesOnly hsize (fun x hlo hx => ruleNames_formatLimit hx fun _ => hlo) fun x hne hx =>
          ruleNames_verifyFail hx ?_
        rw [tableSize_congr (writeSfx_clearTable s)] at hsize
        show x ≠ s.tableBytes
        rwa [tableBytes_eq hv ht, tableExtent_eq_size hsize]
    · next hv => exact ⟨rfl, Bool.eq_false_iff.mpr hv⟩

/-- EST_SIZE's serializer part, over the tree that its first part wrote (R193). -/
theorem estimate_raisesOnly : (estimate (writeTree (clearTree s))).RaisesOnly (RuleNames .estSize s) := by
  have hpart : tablePart (writeSfx { writeTree (clearTree s) with vHuf := true }) =
      tablePart (writeSfx (writeTree (clearTree s))) := rfl
  rw [estimate_eq_measured]
  refine measured_raisesOnly (ruleNames_badAlphabet (s := s) (by decide)) (fun id hv h0 => ?_)
    (fun tb c ht hsize => ?_) fun _ _ _ _ => trivial
  · have hlt : id < s.nSym.toNat := visited_lt (s := writeTree (clearTree s)) hv
    exact ruleNames_operand (i := .estSize) (hlt.trans s.nSym.isLt) (.inr (.inr ⟨hlt, h0⟩))
  · obtain ⟨x, rfl, hx, hlim⟩ :=
      limit_of_tableSize_error (s := { writeTree (clearTree s) with vHuf := true }) rfl ht
        ((tableSize_congr hpart tb).trans hsize)
    exact ruleNames_formatLimit hx hlim

theorem execEstSize_ended (h : execEstSize s = .next t) : Ended .estSize s t := by
  rw [execEstSize_eq] at h
  refine command_ended h nofun ?_ ?_ fun _ => rfl
  · exact (buildTree_writes (i := .estSize) fun _ _ => rfl).thenWrites fun _ _ _ =>
      measured_writes (fun _ => rfl) fun _ _ _ => rfl
  · refine Res.RaisesOnly.bind (buildTree_raisesOnly (ruleNames_badAlphabet (by decide)) fun id hid =>
      ruleNames_operand (foreignToken_lt hid) (.inr (.inl hid))) fun _ u hu => ?_
    rw [(buildTree_ok hu).2]
    exact estimate_raisesOnly

/-! ### The block coder -/

theorem execEncSym_ended (h : execEncSym s = .next t) : Ended .encSym s t := by
  refine command_ended h nofun ?_ ?_ fun _ => rfl
  · split
    · exact (encodeSym_writes _).mono fun _ h => h
    · exact .refl _ s
  · split
    · exact encodeSym_raisesOnly (ruleNames_ceiling (by decide)) (ruleNames_badAlphabet (by decide)) rfl fun hv =>
        ruleNames_operand s.arg0.isLt (.inr ⟨rfl, hv⟩)
    · next hv => exact ⟨rfl, Bool.eq_false_iff.mpr hv⟩

theorem execEncBlock_ended (h : execEncBlock s = .next t) : Ended .encBlock s t := by
  refine command_ended h nofun ?_ ?_ fun _ => rfl
  · split
    · split
      · refine Res.Ends.thenWrites (Res.Ends.afterWrites (t := blockStart s) ?_ rfl) fun _ _ _ =>
          Res.Ends.thenWrites (flush_writes.mono fun _ h => h.mono fun _ _ => rfl) fun _ _ _ => rfl
        exact (encodeRun_writes _ _).mono fun _ h => h.mono fun _ _ => rfl
      · exact .refl _ s
    · exact .refl _ s
  · split
    · split
      · refine Res.RaisesOnly.bind (encodeRun_raisesOnly (s := s) (ruleNames_ceiling (by decide))
          (ruleNames_badAlphabet (by decide)) (blockStart_codingPart s) fun j id hlo hhi htok hv => ?_)
          fun _ _ _ => (flush_raisesOnly (ruleNames_ceiling (by decide))).bind fun _ _ _ => trivial
        exact ruleNames_operand ((token_lt htok).trans (by decide)) (.inr (.inr ⟨j, hlo, by omega, htok, hv⟩))
      · next ha =>
        exact ruleNames_operand (i := .encBlock) (s.wcnt.isLt.trans (by decide))
          (.inl ⟨rfl, wcnt_ne_zero_of_not_aligned ha⟩)
    · next hv => exact ⟨rfl, Bool.eq_false_iff.mpr hv⟩

/-! ### The decode commands and the nodes -/

/-- The causes of a decode command, `n` being the length of its block and `verify` its mode (44_decode R221, R222). -/
theorem WalkCause.ruleNames {verify : Bool} {n : Word} (hi : i = .decSym ∨ i = .decBlock)
    (hroom : s.dptr.toNat + n.toNat < 2 ^ 32)
    (hverify : ∀ x, verify = true ∧ s.dptr.toNat ≤ x ∧ x < s.dptr.toNat + n.toNat → verifyValue i s x)
    (h : WalkCause verify { s with drem := n } c) : RuleNames i s c := by
  cases c with
  | verifyFail x =>
    obtain ⟨hv, hlo, hhi⟩ := h
    exact ruleNames_verifyFail (Nat.lt_trans hhi hroom) (hverify x ⟨hv, hlo, hhi⟩)
  | malformedStream p =>
    obtain rfl | rfl := hi
    · exact h
    · exact h
  | rangeFault v =>
    obtain ⟨a, hlo, hhi, rfl⟩ := h
    have hx : a % 2 ^ 32 % 2 ^ 32 = a % 2 ^ 32 := Nat.mod_mod ..
    obtain rfl | rfl := hi
    · exact ⟨a, hlo, hhi, hx⟩
    · exact ⟨a, hlo, hhi, hx⟩
  | _ => exact h.elim

theorem execDecSym_ended (h : execDecSym s = .next t) : Ended .decSym s t := by
  refine command_ended h nofun ?_ ?_ fun _ => spoilDecode_writes _ _
  · exact (checkLength_ends (.refl _ s)).thenWrites fun _ _ _ => (decSymbol_writes _).thenWrites fun _ _ _ => rfl
  · refine Res.RaisesOnly.bind (checkLength_raisesOnly fun hn => ruleNames_operand s.drem.isLt ⟨rfl, hn⟩)
      fun _ u hu => ?_
    obtain ⟨hroom, rfl⟩ := checkLength_ok hu
    exact Res.RaisesOnly.bind ((decSymbol_raisesOnly _ hroom).mono
      fun _ hc => hc.ruleNames (.inl rfl) hroom fun _ h => h) fun _ _ _ => trivial

theorem execDecBlock_ended (h : execDecBlock s = .next t) : Ended .decBlock s t := by
  refine command_ended h nofun ?_ ?_ fun _ => spoilDecode_writes _ _
  · refine (checkLength_ends (.refl _ s)).thenWrites fun _ u _ => Res.Ends.thenWrites ?_ fun _ _ _ => rfl
    exact Res.Ends.afterWrites (t := { u with drem := u.arg0 }) ((decBlockLoop_writes _ _ _).mono fun _ h => h) rfl
  · refine Res.RaisesOnly.bind (checkLength_raisesOnly fun hn => ruleNames_operand s.arg0.isLt ⟨rfl, hn⟩)
      fun _ u hu => ?_
    obtain ⟨hroom, rfl⟩ := checkLength_ok hu
    exact Res.RaisesOnly.bind ((decBlockLoop_raisesOnly (s := { u with drem := u.arg0 }) _ _ hroom).mono
      fun _ hc => hc.ruleNames (.inr rfl) hroom fun _ h => h) fun _ _ _ => trivial

/-- The causes of a leaf entry by itself. -/
theorem EmissionCause.ruleNames (hi : (∃ d, i = .leafB d) ∨ (∃ n, i = .leafS n) ∨ ∃ n, i = .leafX n)
    (h : EmissionCause s c) : RuleNames i s c := by
  cases c with
  | malformedStream p => obtain ⟨d, rfl⟩ | ⟨n, rfl⟩ | ⟨n, rfl⟩ := hi <;> exact h
  | verifyFail x =>
    obtain ⟨hv, hlt, hx⟩ := h
    refine ruleNames_verifyFail hlt ?_
    obtain ⟨d, rfl⟩ | ⟨n, rfl⟩ | ⟨n, rfl⟩ := hi <;> exact ⟨hv, hx⟩
  | _ => exact h.elim

theorem StringCause.ruleNames (hi : (∃ n, i = .leafS n) ∨ ∃ n, i = .leafX n)
    (h : StringCause (s.walk.pos + 2) s c) : RuleNames i s c := by
  rcases h with h | rfl
  · exact h.ruleNames (.inr hi)
  · obtain ⟨n, rfl⟩ | ⟨n, rfl⟩ := hi <;> exact Nat.mod_mod ..

/-- Every instruction but CLR and RST ends in one of the two ways. -/
theorem exec_ended (hclr : i ≠ .clr) (hrst : i ≠ .rst) (h : exec i s = .next t) : Ended i s t := by
  cases i with
  | clr => exact absurd rfl hclr
  | rst => exact absurd rfl hrst
  | nop => exact execNop_ended h
  | bwInit => exact execBwInit_ended h
  | bwPut => exact execBwPut_ended h
  | bwFlush => exact execBwFlush_ended h
  | brSeek => exact execBrSeek_ended h
  | brRead => exact execBrRead_ended h
  | vliEnc => exact execVliEnc_ended h
  | vliDec => exact execVliDec_ended h
  | hufBuild => exact execHufBuild_ended h
  | hufBits => exact execHufBits_ended h
  | sfxFind => exact execSfxFind_ended h
  | serSize => exact execSerSize_ended h
  | serBuild => exact execSerBuild_ended h
  | estSize => exact execEstSize_ended h
  | encSym => exact execEncSym_ended h
  | encBlock => exact execEncBlock_ended h
  | decSym => exact execDecSym_ended h
  | decBlock => exact execDecBlock_ended h
  | leafB d =>
    exact nodeOutcome_ended rfl (nodeLeafB_writes d)
      ((nodeLeafB_raisesOnly d).mono fun _ hc => hc.ruleNames (.inl ⟨d, rfl⟩)) h
  | leafS n =>
    exact nodeOutcome_ended rfl (nodeLeafS_writes n)
      ((nodeLeafS_raisesOnly n).mono fun _ hc => hc.ruleNames (.inl ⟨n, rfl⟩)) h
  | leafX n =>
    exact nodeOutcome_ended rfl (nodeLeafX_writes n)
      ((nodeLeafX_raisesOnly n).mono fun _ hc => hc.ruleNames (.inr ⟨n, rfl⟩)) h
  | br b => exact nodeOutcome_ended rfl (branch_writes _ _) (branch_raisesOnly _ _ rfl) h
  | brl lo hi => exact nodeOutcome_ended rfl (branch_writes _ _) (branch_raisesOnly _ _ rfl) h
  | vliShort b0 => cases h; exact .inl rfl
  | vliLong lo hi => cases h; exact .inl rfl

/-! ### New errors -/

/-- An error that was not pending before is a fault taken: CLR and RST leave none, and a completion leaves ERR as it
was. -/
theorem faultTaken_of_new_error (h : exec i s = .next t) (hne : t.err ≠ s.err) (h0 : t.err ≠ 0) :
    FaultTaken i s t := by
  have hclr : i ≠ .clr := by
    rintro rfl
    rw [execClr_next h] at h0
    exact h0 rfl
  have hrst : i ≠ .rst := by
    rintro rfl
    rw [execRst_next h] at h0
    exact h0 rfl
  have hrule : faultRule i ≠ .clr ∧ faultRule i ≠ .rst := by
    by_cases hi : i.layer = .node
    · rw [faultRule_of_node hi]
      exact ⟨nofun, nofun⟩
    · rw [faultRule_of_command hi]
      exact ⟨hclr, hrst⟩
  rcases exec_ended hclr hrst h with hw | hf
  · exact absurd (hw.err hrule.1 hrule.2) hne
  · exact hf

/-- Settles O13: a new error is a fault taken, and every cause is one that the instruction's rule names. -/
theorem newErrorsAreFaultsTaken : Obligations.NewErrorsAreFaultsTaken := by
  intro i s t h hne h0
  have hf := faultTaken_of_new_error h hne h0
  exact ⟨hf.busy, hf.walk, hf.records⟩

end Sys2Proof.Machine
end

section
/-! SUPPORT. The bytes of PK and RAW that an instruction can reach, whether it completes or faults (60_exceptions R272
read byte by byte, log entry 8), and the frame of a fault. -/

namespace Sys2Proof.Machine

open Sys2Proof.Safety

variable {α β : Type} {i : Instr} {s t u v : State} {c : Cause} {a j k lo m n : Nat}

/-! ### Pieces and outcomes -/

theorem Res.ofExcept_ends {P : State → Prop} {e : Except Cause α} (h : P s) : (Res.ofExcept e s).Ends P := by
  cases e with
  | ok a => exact h
  | error c => exact h

/-- Pieces in sequence, for a property of states that each keeps. -/
theorem Res.Ends.thenOk {P : State → Prop} {r : Res α} {k : α → State → Res β} (h : r.Ends P)
    (hk : ∀ a t, r = .ok a t → (k a t).Ends P) : (r.bind k).Ends P := by
  cases r with
  | ok a t => exact hk a t rfl
  | raise c t => exact h
  | stop f => trivial

/-- What a command's body keeps however it ends, and what a fault leaves unspecified keeps too, the command keeps. -/
theorem command_keeps_of_ends {P : State → Prop} {always : Bool} {spoil : State → State → State}
    {body : State → Res Unit} (h : command always spoil body s = .next t) (hb : (body s).Ends P)
    (hs : ∀ c u, P u → P (takeFault c (spoil s u))) : P t := by
  obtain ⟨_, hok | ⟨c, u, hr, rfl⟩⟩ := command_next h
  · exact hb.ok hok
  · exact hs c u (hb.raise hr)

theorem nodeOutcome_keeps_of_ends {P : State → Prop} {f : State → Res Unit} (h : nodeOutcome f s = .next t)
    (hb : (f s).Ends P) (hs : ∀ c u, P u → P (takeFault c (spoilDecode s.walk.verify s.drem.toNat s u))) : P t := by
  obtain hok | ⟨c, u, hr, rfl⟩ := nodeOutcome_next h
  · exact hb.ok hok
  · exact hs c u (hb.raise hr)

/-! ### The writer -/

/-- Bytes of PK other than the `n` from `lo` on read as before. -/
def KeepsPkBeyond (lo n : Nat) (s t : State) : Prop := ∀ a, a < lo ∨ lo + n ≤ a → t.pkByte a = s.pkByte a

theorem KeepsPkBeyond.trans (h : KeepsPkBeyond lo n s t) (h' : KeepsPkBeyond lo n t u) : KeepsPkBeyond lo n s u :=
  fun a ha => (h' a ha).trans (h a ha)

theorem KeepsPkBeyond.mono (h : KeepsPkBeyond lo m s t) (hmn : m ≤ n) : KeepsPkBeyond lo n s t :=
  fun a ha => h a (by omega)

theorem spoilAppend_keepsPkBeyond (lo n : Nat) (s : State) : KeepsPkBeyond lo n s (spoilAppend lo n s) :=
  fun _ => spoilAppend_pkByte

theorem Appends.keepsPkBeyond (h : Appends s t) (hn : t.wptr.toNat ≤ s.wptr.toNat + n) :
    KeepsPkBeyond s.wptr.toNat n s t :=
  fun a ha => h.pkByte a (by omega)

/-- The writer has appended, and its place has risen by at most `k` bits. -/
structure PutsUpTo (k : Nat) (s t : State) : Prop extends Appends s t where
  writePos_le : t.writePos ≤ s.writePos + k

theorem PutsUpTo.refl (k : Nat) (s : State) : PutsUpTo k s s := ⟨.refl s, Nat.le_add_right ..⟩

theorem PutsUpTo.trans (h : PutsUpTo j s t) (h' : PutsUpTo k t u) : PutsUpTo (j + k) s u :=
  ⟨h.toAppends.trans h'.toAppends, by have := h.writePos_le; have := h'.writePos_le; omega⟩

theorem PutsUpTo.mono (h : PutsUpTo j s t) (hjk : j ≤ k) : PutsUpTo k s t :=
  ⟨h.toAppends, by have := h.writePos_le; omega⟩

/-- Bits that complete at most `n` bytes reach no other byte (40_bitio R131). -/
theorem PutsUpTo.keepsPkBeyond (h : PutsUpTo k s t) (hn : s.bytesPut k ≤ n) : KeepsPkBeyond s.wptr.toNat n s t := by
  refine h.toAppends.keepsPkBeyond ?_
  have hpos := h.writePos_le
  unfold State.writePos at hpos
  unfold State.bytesPut at hn
  omega

theorem Res.Ends.thenPuts {r : Res α} {f : α → State → Res β} (h : r.Ends (PutsUpTo j s))
    (hf : ∀ a t, r = .ok a t → (f a t).Ends (PutsUpTo k t)) : (r.bind f).Ends (PutsUpTo (j + k) s) := by
  cases r with
  | ok a t => exact (hf a t rfl).mono fun _ => h.trans
  | raise c t => exact PutsUpTo.mono h (Nat.le_add_right ..)
  | stop f => trivial

theorem wAppend_putsUpTo (b : Byte) : (wAppend b s).Ends (PutsUpTo 8 s) := by
  have happ := wAppend_appends (s := s) b
  cases h : wAppend b s with
  | ok _ t =>
    have hptr := (wAppend_moves h).1
    obtain ⟨_, ht⟩ := wAppend_ok.mp h
    have hcnt : t.wcnt = s.wcnt := by rw [ht, pkWrite_frame]
    exact ⟨happ.ok h, by rw [State.writePos, State.writePos, hcnt]; omega⟩
  | raise c t =>
    obtain ⟨_, _, rfl⟩ := wAppend_raise.mp h
    exact .refl 8 _
  | stop f => trivial

theorem appendAll_putsUpTo (bs : List Byte) : (appendAll bs s).Ends (PutsUpTo (8 * bs.length) s) := by
  induction bs generalizing s with
  | nil => exact .refl _ s
  | cons b rest ih =>
    exact ((wAppend_putsUpTo b).thenPuts fun _ _ _ => ih).mono fun _ h => h.mono (by rw [List.length_cons]; omega)

theorem bitPut_putsUpTo (b : Bool) : (bitPut b s).Ends (PutsUpTo 1 s) := by
  have happ := bitPut_appends (s := s) b
  by_cases hroom : s.writePos + 1 < 2 ^ 35
  · obtain ⟨t, ht, hpos⟩ := bitPut_fits b hroom
    rw [ht] at happ ⊢
    exact ⟨happ, hpos.le⟩
  · rw [bitPut_ceiling b (by omega)]
    exact .refl 1 s

theorem putAll_putsUpTo (bits : List Bool) : (putAll bits s).Ends (PutsUpTo bits.length s) := by
  induction bits generalizing s with
  | nil => exact .refl _ s
  | cons b rest ih =>
    exact ((bitPut_putsUpTo b).thenPuts fun _ _ _ => ih).mono fun _ h => h.mono (by rw [List.length_cons]; omega)

theorem flush_putsUpTo : (flush s).Ends (PutsUpTo 7 s) := by
  have happ := flush_appends (s := s)
  by_cases hroom : s.writePos + 7 < 2 ^ 35
  · obtain ⟨t, ht, hptr⟩ := flush_fits hroom
    have hcnt : t.wcnt.toNat = 0 := congrArg BitVec.toNat (flush_frame ht).1
    rw [ht] at happ ⊢
    exact ⟨happ, by rw [State.writePos, hcnt]; omega⟩
  · rw [flush_ceiling (by omega)]
    exact .refl 7 s

theorem encodeSym_putsUpTo (id : Nat) : (encodeSym id s).Ends (PutsUpTo (s.codeOf id).length s) := by
  unfold encodeSym
  split
  · exact .refl _ s
  · split
    · exact putAll_putsUpTo _
    · exact .refl _ s

theorem encodeRun_putsUpTo (h : codingPart t = codingPart s) : (encodeRun n k t).Ends (PutsUpTo (runBits n k s) t) := by
  induction n generalizing k t with
  | zero => exact .refl _ t
  | succ n ih =>
    unfold encodeRun runBits
    rw [token_congr h]
    split
    · exact .refl _ t
    · next id _ =>
      rw [← codeOf_congr h]
      exact (encodeSym_putsUpTo id).thenPuts fun _ _ hu => ih ((codingPart_of_encodeSym hu).trans h)

/-- A VLI has at most three bytes (41_varint R150). -/
theorem vliBytes_length_le {bs : List Byte} (h : vliBytes m = .ok bs) : bs.length ≤ 3 := by
  unfold vliBytes at h
  split at h
  · cases h
  · cases h
    split
    · exact (by decide : 1 ≤ 3)
    · exact le_rfl

/-- A command that puts at most `k` bits, and what a fault of it leaves unspecified, reach the bytes that `k` bits
complete. -/
theorem command_keepsPkBeyond {spoil : State → State → State} {body : State → Res Unit}
    (h : command false spoil body s = .next t) (hb : (body s).Ends (PutsUpTo k s)) (hn : s.bytesPut k ≤ n)
    (hs : ∀ u, KeepsPkBeyond s.wptr.toNat n u (spoil s u)) : KeepsPkBeyond s.wptr.toNat n s t :=
  command_keeps_of_ends h (hb.mono fun _ hu => hu.keepsPkBeyond hn) fun _ u hu => hu.trans (hs u)

/-- The partial byte, one bit short of a byte at most, completes no byte beside those of the bits put. -/
theorem bytesPut_le (h : k ≤ 8 * n) : s.bytesPut k ≤ n := by
  have hcnt := s.wcnt.isLt
  unfold State.bytesPut
  omega

theorem execBwPut_keepsPkBeyond (h : execBwPut s = .next t) : KeepsPkBeyond s.wptr.toNat 1 s t :=
  command_keepsPkBeyond h (bitPut_putsUpTo _) (bytesPut_le (by decide)) fun u => spoilAppend_keepsPkBeyond _ 1 u

theorem execBwFlush_keepsPkBeyond (h : execBwFlush s = .next t) : KeepsPkBeyond s.wptr.toNat 1 s t :=
  command_keepsPkBeyond h flush_putsUpTo (bytesPut_le (by decide)) fun u => spoilAppend_keepsPkBeyond _ 1 u

theorem execVliEnc_keepsPkBeyond (h : execVliEnc s = .next t) : KeepsPkBeyond s.wptr.toNat 3 s t := by
  refine command_keepsPkBeyond (k := 24) h ?_ (bytesPut_le (by decide)) fun u => spoilAppend_keepsPkBeyond _ 3 u
  split
  · refine Res.Ends.thenOk (Res.ofExcept_ends (.refl _ s)) fun bs u hu => ?_
    obtain ⟨hbs, rfl⟩ := Res.ofExcept_eq_ok.mp hu
    have hlen := vliBytes_length_le hbs
    exact Res.Ends.mono ((appendAll_putsUpTo bs).thenPuts (k := 0) fun _ v _ => { PutsUpTo.refl 0 v with })
      fun _ hw => hw.mono (by omega)
  · exact .refl _ s

theorem execEncSym_keepsPkBeyond (h : execEncSym s = .next t) :
    KeepsPkBeyond s.wptr.toNat (s.bytesPut (s.codeOf s.arg0.toNat).length) s t := by
  refine command_keepsPkBeyond h ?_ le_rfl fun u => spoilAppend_keepsPkBeyond _ _ u
  split
  · exact encodeSym_putsUpTo _
  · exact .refl _ s

theorem execEncBlock_keepsPkBeyond (h : execEncBlock s = .next t) :
    KeepsPkBeyond s.wptr.toNat s.blockBytes s t := by
  refine command_keepsPkBeyond h ?_ le_rfl fun u => spoilAppend_keepsPkBeyond _ _ u
  split
  · split
    · have hrun := encodeRun_putsUpTo (n := s.ssLen.toNat - s.arg0.toNat) (k := s.arg0.toNat) (blockStart_codingPart s)
      refine Res.Ends.thenPuts (hrun.mono fun _ hu => { hu with }) fun j u _ => ?_
      exact flush_putsUpTo.thenPuts (k := 0) fun _ v _ => { PutsUpTo.refl 0 v with }
    · exact .refl _ s
  · exact .refl _ s

/-- The bytes that each of the writer's commands can reach. -/
theorem exec_keepsPkBeyond (h : exec i s = .next t)
    (hn : (i, n) ∈ [(Instr.bwPut, 1), (.bwFlush, 1), (.vliEnc, 3),
      (.encSym, (s.wcnt.toNat + (s.codeOf s.arg0.toNat).length) / 8), (.encBlock, s.blockBytes)]) :
    KeepsPkBeyond s.wptr.toNat n s t := by
  simp only [List.mem_cons, List.not_mem_nil, or_false, Prod.mk.injEq] at hn
  obtain ⟨rfl, rfl⟩ | ⟨rfl, rfl⟩ | ⟨rfl, rfl⟩ | ⟨rfl, rfl⟩ | ⟨rfl, rfl⟩ := hn
  · exact execBwPut_keepsPkBeyond h
  · exact execBwFlush_keepsPkBeyond h
  · exact execVliEnc_keepsPkBeyond h
  · exact execEncSym_keepsPkBeyond h
  · exact execEncBlock_keepsPkBeyond h

/-! ### The table builder -/

theorem emitEntry_appends (id : Nat) : (emitEntry id s).Ends (Appends s) := by
  unfold emitEntry
  split
  · exact appendAll_appends _
  · split
    · exact appendAll_appends _
    · exact (appendAll_appends _).thenAppends fun _ t _ =>
        Res.Ends.mono (appendAll_appends (s := addFixup _ t) _) fun _ h => { h with }

theorem emitTree_appends (tr : HTree) (code : List Bool) : (emitTree tr code s).Ends (Appends s) := by
  induction tr generalizing code s with
  | leaf id c => exact (emitEntry_appends id).mono fun _ h => { h with }
  | node a b iha ihb =>
    refine Res.ofExcept_bind_ends (.refl s) fun sa => Res.ofExcept_bind_ends (.refl s) fun sb =>
      Res.ofExcept_bind_ends (.refl s) fun skip => (appendAll_appends skip).thenAppends fun _ t _ => ?_
    split
    · exact (ihb _).thenAppends fun _ _ _ => iha _
    · exact (iha _).thenAppends fun _ _ _ => ihb _

theorem emitTable_appends (tb : Option HTree) : (emitTable tb s).Ends (Appends s) := by
  cases tb with
  | none => exact .refl s
  | some tr => exact emitTree_appends tr []

/-- Pass 1 goes through up to the table's end, or stops at the writer's ceiling (43_serializer R189, 40_bitio R130). -/
theorem emitTable_keepsPkBeyond {tb : Option HTree} (h : ∀ tr ∈ tb, Emittable u tr) (hs : tablePart s = tablePart u)
    (hp : s.wptr = u.tbase) (hlen : (tableText u (fun _ => 0) tb).length = n) :
    (emitTable tb s).Ends (KeepsPkBeyond s.wptr.toNat n s) := by
  have happ := emitTable_appends (s := s) tb
  by_cases hroom : u.tbase.toNat + (tableText u (fun _ => 0) tb).length ≤ 2 ^ 32 - 1
  · obtain ⟨v, hv, htext, _⟩ := emitTable_ok h hs hp hroom
    exact hv ▸ Appends.keepsPkBeyond (happ.ok hv) (htext.wptr.trans (congrArg _ hlen)).le
  · rw [← hp, hlen] at hroom
    exact happ.mono fun v hv => hv.keepsPkBeyond (by have := v.wptr.isLt; omega)

/-- SER_BUILD's own part stores in the table alone, wherever it stops (R190). -/
theorem buildTable_keepsPkBeyond {tb : Option HTree} (h : ∀ tr ∈ tb, Emittable u tr) (hs : tablePart s = tablePart u)
    (hlen : (tableText u (fun _ => 0) tb).length = n) :
    (buildTable tb n s).Ends (KeepsPkBeyond s.tbase.toNat n s) := by
  have hemit := emitTable_keepsPkBeyond (s := { s with wptr := s.tbase, wacc := 0, wcnt := 0, nfix := 0 }) h hs
    (tbase_congr hs) hlen
  refine Res.Ends.thenOk hemit fun _ v hv => ?_
  have hbuilt := emitTable_builds hv
  have hkeeps : KeepsPkBeyond s.tbase.toNat n s v := hemit.ok hv
  split
  · exact hkeeps
  · next hest =>
    have hbase : v.tbase = s.tbase := (congrArg State.tbase (emitTable_frame hv) :)
    have hend : v.wptr.toNat ≤ s.tbase.toNat + n := by rw [hbase] at hest; omega
    have hwithin := hbuilt.fixups s.tbase.toNat le_rfl fun k hk => absurd hk (Nat.not_lt_zero k)
    have hpatches := (resolveFixups_patches hwithin (Nat.zero_add _).le).mono fun w hw =>
      (hkeeps.trans fun a ha => hw.pkByte a (by omega) : KeepsPkBeyond s.tbase.toNat n s w)
    exact hpatches.thenOk fun _ w hw => show KeepsPkBeyond s.tbase.toNat n s w from hpatches.ok hw

/-- What SER_SIZE, SER_BUILD and EST_SIZE keep, which the writing of SFX keeps and what follows it keeps. -/
theorem measured_ends {P : State → Prop} {k : Option HTree → Nat → State → Res Unit} (h0 : P s) (h1 : P (writeSfx s))
    (hk : ∀ tb n, s.tree = some tb → tableSize (writeSfx s) tb = .ok n → (k tb n (writeSfx s)).Ends P) :
    (measured k s).Ends P := by
  have hsfx : (sfxAll s).Ends P := by
    unfold sfxAll
    split
    · exact h0
    · split
      · exact h0
      · exact h1
  refine hsfx.thenOk fun _ u hu => ?_
  cases sfxAll_ok hu
  unfold withTree
  split
  · next tb htree =>
    refine Res.Ends.thenOk (Res.ofExcept_ends h1) fun n u hu => ?_
    obtain ⟨hsize, rfl⟩ := Res.ofExcept_eq_ok.mp hu
    exact hk tb n htree hsize
  · trivial

theorem execSerBuild_keepsPkBeyond (hsound : treeSound s) (h : execSerBuild s = .next t) :
    KeepsPkBeyond s.tbase.toNat s.tableBytes s t := by
  have hkeeps (u : State) (hu : u.pk = s.pk) : KeepsPkBeyond s.tbase.toNat s.tableBytes s u :=
    fun a _ => by rw [State.pkByte, hu]; rfl
  rw [execSerBuild_eq] at h
  refine command_keeps_of_ends (P := KeepsPkBeyond s.tbase.toNat s.tableBytes s) h ?_ fun _ u hu =>
    hu.trans (spoilAppend_keepsPkBeyond _ _ u)
  split
  · next hv =>
    refine measured_ends (hkeeps _ rfl) (hkeeps _ rfl) fun tb n htree hsize => ?_
    rw [tableSize_congr (writeSfx_clearTable s)] at hsize
    obtain ⟨tr, htr, hperm⟩ := hsound hv
    cases htr.symm.trans htree
    obtain ⟨hemit, hlen⟩ := writeSfx_emittable (fun _ => 0) hperm hsize
    rw [tableBytes_eq hv htree, tableExtent_eq_size hsize]
    exact buildTable_keepsPkBeyond hemit (writeSfx_clearTable s) hlen
  · exact hkeeps s rfl

/-! ### The decode walk -/

/-- In verify mode RAW stays; in either mode bytes of RAW other than the `n` from DPTR on read as before. -/
structure DecodesUpTo (verify : Bool) (n : Nat) (s t : State) : Prop where
  raw : verify = true → t.raw = s.raw
  rawByte : ∀ a, a < s.dptr.toNat ∨ s.dptr.toNat + n ≤ a → t.rawByte a = s.rawByte a

theorem rawByte_of_raw (h : t.raw = s.raw) (a : Nat) : t.rawByte a = s.rawByte a := by
  rw [State.rawByte, h]
  rfl

theorem DecodesUpTo.refl (verify : Bool) (n : Nat) (s : State) : DecodesUpTo verify n s s :=
  ⟨fun _ => rfl, fun _ _ => rfl⟩

/-- Emission reaches the bytes that DREM counts, when the block ends within 32 bits, and none in verify mode
(44_decode R220). -/
theorem StoresRaw.decodesUpTo {verify : Bool} (h : StoresRaw verify s t)
    (hroom : verify = true ∨ s.dptr.toNat + s.drem.toNat < 2 ^ 32) : DecodesUpTo verify s.drem.toNat s t where
  raw := h.raw
  rawByte a ha := by
    rcases hroom with hv | hroom
    · exact rawByte_of_raw (h.raw hv) a
    · have hmoves := h.moves hroom
      have htotal := hmoves.total
      exact hmoves.rawByte a (by omega)

theorem DecodesUpTo.spoiled {verify : Bool} (h : DecodesUpTo verify n s t) :
    DecodesUpTo verify n s (spoilDecode verify n s t) := by
  cases verify with
  | true => exact ⟨h.raw, h.rawByte⟩
  | false => exact ⟨nofun, fun a ha => (spoilRaw_rawByte ha).trans (h.rawByte a ha)⟩

theorem DecodesUpTo.faulted {verify : Bool} (c : Cause) (h : DecodesUpTo verify n s t) :
    DecodesUpTo verify n s (takeFault c (spoilDecode verify n s t)) :=
  { h.spoiled with }

theorem execDecSym_decodesUpTo (h : execDecSym s = .next t) : DecodesUpTo s.arg0Bit s.drem.toNat s t := by
  refine command_keeps_of_ends (P := DecodesUpTo s.arg0Bit s.drem.toNat s) h ?_ fun c _ hu => hu.faulted c
  refine Res.Ends.thenOk (checkLength_ends (.refl _ _ s)) fun _ u hu => ?_
  obtain ⟨hroom, rfl⟩ := checkLength_ok hu
  have hwalk := (decSymbol_storesRaw (s := u) u.arg0Bit).mono fun _ hw => hw.decodesUpTo (.inr hroom)
  exact hwalk.thenOk fun _ v hv => { hwalk.ok hv with }

theorem execDecBlock_decodesUpTo (h : execDecBlock s = .next t) : DecodesUpTo s.arg1Bit s.arg0.toNat s t := by
  refine command_keeps_of_ends (P := DecodesUpTo s.arg1Bit s.arg0.toNat s) h ?_ fun c _ hu => hu.faulted c
  refine Res.Ends.thenOk (checkLength_ends (.refl _ _ s)) fun _ u hu => ?_
  obtain ⟨hroom, rfl⟩ := checkLength_ok hu
  have hwalk : (decBlockLoop u.arg1Bit (blockBound { u with drem := u.arg0 }) 0 { u with drem := u.arg0 }).Ends
      (DecodesUpTo u.arg1Bit u.arg0.toNat u) :=
    (decBlockLoop_storesRaw _ _ _).mono fun _ hw => { hw.decodesUpTo (.inr hroom) with }
  exact hwalk.thenOk fun _ v hv => { hwalk.ok hv with }

theorem nodeOutcome_decodesUpTo {f : State → Res Unit} (h : nodeOutcome f s = .next t) (hf : (f s).Ends (Emits s))
    (hroom : s.walk.verify = true ∨ s.dptr.toNat + s.drem.toNat < 2 ^ 32) :
    DecodesUpTo s.walk.verify s.drem.toNat s t :=
  nodeOutcome_keeps_of_ends (P := DecodesUpTo s.walk.verify s.drem.toNat s) h
    (hf.mono fun _ hu => hu.toStoresRaw.decodesUpTo hroom) fun c _ hu => hu.faulted c

theorem exec_node_decodesUpTo (hi : i.layer = .node) (h : exec i s = .next t)
    (hroom : s.walk.verify = true ∨ s.dptr.toNat + s.drem.toNat < 2 ^ 32) :
    DecodesUpTo s.walk.verify s.drem.toNat s t := by
  cases i with
  | leafB data => exact nodeOutcome_decodesUpTo h (nodeLeafB_emits data) hroom
  | leafS n => exact nodeOutcome_decodesUpTo h (nodeLeafS_emits n) hroom
  | leafX n => exact nodeOutcome_decodesUpTo h (nodeLeafX_emits n) hroom
  | br b => exact nodeOutcome_decodesUpTo h (branch_emits _ _) hroom
  | brl lo hi => exact nodeOutcome_decodesUpTo h (branch_emits _ _) hroom
  | _ => cases hi

/-! ### The frame of a fault -/

/-- Settles O18: a new error is a fault taken, whose frame is its rule's; the bytes out of reach are those out of
reach of every way that the instruction can end. -/
theorem faultedInstructionsFrame : Obligations.FaultedInstructionsFrame := by
  intro i s t h h0 hne
  have hf := faultTaken_of_new_error h (h0 ▸ hne) hne
  refine ⟨hf.written, fun n hn => exec_keepsPkBeyond h hn, ?_, ?_, ?_⟩
  · rintro rfl hsound
    exact execSerBuild_keepsPkBeyond hsound h
  · rintro n (hn | hn | ⟨hi, rfl, hroom⟩)
    · cases hn
      exact (execDecSym_decodesUpTo h).rawByte
    · cases hn
      exact (execDecBlock_decodesUpTo h).rawByte
    · exact (exec_node_decodesUpTo hi h (.inr hroom)).rawByte
  · rintro (⟨rfl, hv⟩ | ⟨rfl, hv⟩ | ⟨hi, hv⟩)
    · exact (execDecSym_decodesUpTo h).raw hv
    · exact (execDecBlock_decodesUpTo h).raw hv
    · exact (exec_node_decodesUpTo hi h (.inl hv)).raw hv

end Sys2Proof.Machine
end

section
/-! SUPPORT. The frame of an instruction that completes, from `exec_ended` and what each node writes; and the invariants
of 10_state after reset. -/

namespace Sys2Proof.Machine

open Sys2Proof.Safety

variable {i : Instr} {s t : State}

/-! ### Completion -/

/-- The codes that a fault can leave are none of them 0 (60_exceptions R260). -/
theorem FaultTaken.err_ne_zero (h : FaultTaken i s t) : t.err ≠ 0 := by
  obtain ⟨he, _⟩ | ⟨he, _⟩ | ⟨he, _⟩ | ⟨he, _⟩ | ⟨he, _⟩ | ⟨he, _⟩ := h.records <;> rw [he] <;> decide

/-- An instruction that ends without an error has taken no fault. -/
theorem Ended.writes (h : Ended i s t) (he : t.err = 0) : Writes (faultRule i) s t :=
  h.resolve_right fun hf => hf.err_ne_zero he

/-- A completed branch writes the reader's registers and the walk (44_decode R211, R212). -/
theorem branch_writes_reader {l r : Nat} {x : Unit} (h : branch l r s = .ok x t) :
    t = { s with rpos := t.rpos, rbit := t.rbit, walk := t.walk } := by
  obtain ⟨_, hframe⟩ := branch_frame h
  rw [hframe]

/-- A completed node writes what its own rule lists, less than the decode command it is part of: a leaf entry leaves the
reader alone, a branch emits nothing. -/
theorem exec_node_writes (hi : i.layer = .node) (h : exec i s = .next t) (he : t.err = 0) : Writes i s t := by
  cases i with
  | leafB d => exact (nodeLeafB_step (nodeOutcome_completed h he)).frame
  | leafS n => exact (nodeLeafS_step (nodeOutcome_completed h he)).frame
  | leafX n => exact (nodeLeafX_step (nodeOutcome_completed h he)).frame
  | br b => exact branch_writes_reader (nodeOutcome_completed h he)
  | brl lo hi => exact branch_writes_reader (nodeOutcome_completed h he)
  | _ => cases hi

/-- A completed command or VLI form writes what its rule lists. -/
theorem exec_writes_of_not_node (hi : i.layer ≠ .node) (h : exec i s = .next t) (he : t.err = 0) : Writes i s t := by
  by_cases hclr : i = .clr
  · subst hclr
    rw [execClr_next h]
    exact rfl
  by_cases hrst : i = .rst
  · subst hrst
    rw [execRst_next h]
    exact rfl
  have hw := (exec_ended hclr hrst h).writes he
  rwa [faultRule_of_command hi] at hw

/-- Settles O17: a node writes what its own rule lists, every other instruction ends as `exec_ended` says. -/
theorem completedInstructionsFrame : Obligations.CompletedInstructionsFrame := by
  intro i s t h he
  by_cases hi : i.layer = .node
  · exact exec_node_writes hi h he
  · exact exec_writes_of_not_node hi h he

/-! ### Reset -/

/-- Settles O25: no memory lists a cell, WACC, ERR and the flags are 0, no command and no walk runs, and with V_HUF = 0
there is no tree to hold. -/
theorem resetMeetsInvariants : Obligations.ResetMeetsInvariants :=
  ⟨rfl, rfl, rfl, rfl, rfl, rfl, nofun⟩

end Sys2Proof.Machine
end
